-- ==== Sys2Proof/Word.lean ====
section
/-! DEFINITION. The word types of the block: bytes, the 16-bit operand fields, the 128-bit request word. -/

namespace Sys2Proof

/-- One byte: the only width any memory of the block is accessed in (R50, R62). -/
abbrev Byte := BitVec 8

/-- The request word `req[127:0]` (R90). -/
abbrev Request := BitVec 128

end Sys2Proof
end

