-- ==== Sys2Proof/Config.lean ====
section
/-! DEFINITION. What is fixed for one machine (R11) and the free values: constants without a body, about which
nothing can be proved, one for every value the spec leaves unspecified. -/

namespace Sys2Proof

/-- The controller kind of a display variant (R9): strap value 0 is SSD1306, 1 is SH1106. -/
inductive Chip where
  | ssd1306
  | sh1106
  deriving DecidableEq, Repr

/-- The three font families (R19): 8×8, 6×8 and 5×8. -/
inductive Font where
  | f8
  | f6
  | f5
  deriving DecidableEq, Repr

namespace Config

/-- `WIDTH` (R10, R11). -/
def width : Nat := 128

/-- The most payload bytes one message carries (R33). -/
def maxPayload : Nat := 128

/-- The 7-bit bus address of the display (R11); no rule reads it. -/
def devAddr : BitVec 7 := 0x3C#7

/-- The bus clock (R11); no rule reads it. -/
def busHz : Nat := 400000

/-- `TIMEOUT_TICKS` (R11, R246): open; handed to the transport with every message and read by no rule.
Free value, log entry 10. -/
opaque timeoutTicks : Nat

/-- Strap `CFG_CHIP` as `State.reset` samples it (R9, R36). DESIGN CHOICE, log entry 2: an input of the block;
`State.resetWith` takes every value of it. -/
def cfgChip : Chip := .ssd1306

/-- Strap `CFG_H64` as `State.reset` samples it (R9, R36). DESIGN CHOICE, log entry 2. -/
def cfgH64 : Bool := true

/-- What a framebuffer byte nothing has written since reset holds (R37, U5: "any value; never zero by
assumption"). Free value, log entry 1. -/
opaque fbPowerUp : Nat → Byte

/-- What a byte of the device's display memory nothing has written holds (R79, U1). Free value, log entry 1. -/
opaque devPowerUp : Nat → Byte

/-- A byte of `SRC` that the state does not list (R53, R269, U13: `SRC` is total). Free value, log entry 4. -/
opaque srcByte : Nat → Byte

/-- A byte of a glyph table that the state does not list (R34, U19: contents are open). Free value, log entry 4. -/
opaque glyphByte : Font → Nat → Byte

/-- The transport's answer to a message for which the state lists none (R33, U14); true is `ok`.
Free value, log entry 3. -/
opaque transportOk : Nat → Bool

/-- The free values the device mirror draws, one per draw (R82, R84, R216 to R218; U8, U9, U10). Log entry 7. -/
opaque deviceByte : Nat → Byte

/-- How many rows a device drives whose multiplex-ratio byte is not the `HEIGHT` − 1 of R203, which says nothing of it.
Free value, log entry 7. -/
opaque otherRows : Byte → Nat

end Config

end Sys2Proof
end

