-- ==== Sys2Proof/Syntax.lean ====
section
/-! DEFINITION. The instructions: one constructor per row of spec/opcode_table.json, the 17 requests of R92 and then
the 18 controller commands of R200; and the bus messages of R100. -/

namespace Sys2Proof

/-- An instruction, its operands being exactly the fields R93 says the request reads, or the fields of the command's
bytes (R103, R200). Every operand has the width of its field, so every term is well formed. -/
inductive Instr where
  | init
  | setpos (x y : BitVec 16)
  | flushpage (ch : BitVec 8)
  | flush
  | clrbuf
  | clear
  | setpixel (color : Bool) (x y : BitVec 16)
  | drawbitmap (x y w h : BitVec 16) (ptr : BitVec 32)
  | drawhline (color : Bool) (x y w : BitVec 16)
  | drawvline (color : Bool) (x y w : BitVec 16)
  | drawrect (color : Bool) (x y w h : BitVec 16)
  | drawchar8 (ch : BitVec 8) (x y : BitVec 16)
  | drawchar6 (ch : BitVec 8) (x y : BitVec 16)
  | drawchar5 (ch : BitVec 8) (x y : BitVec 16)
  | drawstr8 (x y w : BitVec 16) (ptr : BitVec 32)
  | drawstr6 (x y w : BitVec 16) (ptr : BitVec 32)
  | drawstr5 (x y w : BitVec 16) (ptr : BitVec 32)
  | setcollo (n : BitVec 4)
  | setcolhi (n : BitVec 4)
  | addrmode (a : Byte)
  | colrange (lo hi : Byte)
  | pagerange (lo hi : Byte)
  | startline (l : BitVec 6)
  | contrast (a : Byte)
  | chargepump (a : Byte)
  | segremap (r : Bool)
  | muxratio (a : Byte)
  | dispoff
  | dispon
  | setpage (p : BitVec 3)
  | comscan (d : Bool)
  | dispoffset (a : Byte)
  | clockdiv (a : Byte)
  | compins (a : Byte)
  | vcomh (a : Byte)
  deriving DecidableEq, Repr

/-- Where an instruction enters the machine: the block's request port (R32), or the device's end of the bus (R80). -/
inductive Port where
  | request
  | device
  deriving DecidableEq, Repr

/-- The port of each instruction: format `REQ` against formats `C1`, `C2`, `C3` of the opcode table. -/
def Instr.port : Instr → Port
  | .init => .request
  | .setpos _ _ => .request
  | .flushpage _ => .request
  | .flush => .request
  | .clrbuf => .request
  | .clear => .request
  | .setpixel _ _ _ => .request
  | .drawbitmap _ _ _ _ _ => .request
  | .drawhline _ _ _ _ => .request
  | .drawvline _ _ _ _ => .request
  | .drawrect _ _ _ _ _ => .request
  | .drawchar8 _ _ _ => .request
  | .drawchar6 _ _ _ => .request
  | .drawchar5 _ _ _ => .request
  | .drawstr8 _ _ _ _ => .request
  | .drawstr6 _ _ _ _ => .request
  | .drawstr5 _ _ _ _ => .request
  | .setcollo _ => .device
  | .setcolhi _ => .device
  | .addrmode _ => .device
  | .colrange _ _ => .device
  | .pagerange _ _ => .device
  | .startline _ => .device
  | .contrast _ => .device
  | .chargepump _ => .device
  | .segremap _ => .device
  | .muxratio _ => .device
  | .dispoff => .device
  | .dispon => .device
  | .setpage _ => .device
  | .comscan _ => .device
  | .dispoffset _ => .device
  | .clockdiv _ => .device
  | .compins _ => .device
  | .vcomh _ => .device

/-- The mode tag of a bus message (R100). -/
inductive BusMode where
  | cmd
  | data
  deriving DecidableEq, Repr

/-- The transport's answer to one message (R33). -/
inductive Answer where
  | ok
  | fail
  deriving DecidableEq, Repr

/-- One event of the trace `TR` (R30). -/
structure Event where
  mode    : BusMode
  payload : List Byte
  answer  : Answer
  deriving DecidableEq, Repr

/-- The device's addressing mode (R79). -/
inductive AddrMode where
  | horizontal
  | page
  | other
  deriving DecidableEq, Repr

/-- How a page is flushed (R9, R135, R137). -/
inductive FlushStrategy where
  | single
  | split
  deriving DecidableEq, Repr

/-- The source's DisplayVariant record (R9). -/
structure DisplayVariant where
  chip     : Chip
  height   : Nat
  colOff   : Nat
  addrMode : AddrMode
  strategy : FlushStrategy
  deriving DecidableEq, Repr

end Sys2Proof
end

