-- ==== Sys2Proof/WellFormed.lean ====
section
/-! DEFINITION. Well-formedness of the records whose types admit more than the spec does: display variants (R9) and
bus messages (R100, R104, R105, R107). A term of `Instr` needs no check: each operand's type has its field's width. -/

namespace Sys2Proof

/-- "There are four legal variants"; a record whose last three fields disagree with the table of R9 is ill formed. -/
def DisplayVariant.wellFormed (v : DisplayVariant) : Bool :=
  (v.height == 32 || v.height == 64) &&
  match v.chip with
  | .ssd1306 => v.colOff == 0 && v.addrMode == .horizontal && v.strategy == .single
  | .sh1106 => v.colOff == 2 && v.addrMode == .page && v.strategy == .split

/-- A message as R33, R100 and R107 allow it: 1 to 128 bytes of payload, and a data message is exactly one page. -/
def Event.wellFormed (e : Event) : Bool :=
  match e.mode with
  | .cmd => !e.payload.isEmpty && decide (e.payload.length ≤ Config.maxPayload)
  | .data => e.payload.length == Config.width

end Sys2Proof
end

