-- ==== Sys2Proof/Decode.lean ====
section
/-! DEFINITION. The decoder: total on every request word (R90 to R95) and on every list of command bytes (R102, R103,
R200), rejecting by name; and after it the encoder, written from the same tables. -/

namespace Sys2Proof

/-- Why bytes are no instruction. -/
inductive DecodeError where
  /-- The request's `OP` is 0x11 to 0x1F (R95). -/
  | reservedOp (op : BitVec 5)
  /-- A serialised request has 16 bytes (R90); fewer were given. -/
  | shortRequest
  /-- A command was asked for and no byte is there. -/
  | noByte
  /-- The first byte is the opcode of no command of table `CB` (R200). -/
  | unknownCommand (b : Byte)
  /-- The bytes end before the command's arguments do. -/
  | cutShort (b : Byte)
  deriving DecidableEq, Repr

/-! ### Request fields (R90) -/

/-- `OP` = `req[4:0]`. -/
def reqOp (w : Request) : BitVec 5 := w.extractLsb' 0 5
/-- `COLOR` = `req[7]`. -/
def reqColor (w : Request) : Bool := w.getLsbD 7
/-- `CH` = `req[15:8]`. -/
def reqCh (w : Request) : BitVec 8 := w.extractLsb' 8 8
/-- `X` = `req[31:16]`. -/
def reqX (w : Request) : BitVec 16 := w.extractLsb' 16 16
/-- `Y` = `req[47:32]`. -/
def reqY (w : Request) : BitVec 16 := w.extractLsb' 32 16
/-- `W` = `req[63:48]`. -/
def reqW (w : Request) : BitVec 16 := w.extractLsb' 48 16
/-- `H` = `req[79:64]`. -/
def reqH (w : Request) : BitVec 16 := w.extractLsb' 64 16
/-- `PTR` = `req[111:80]`. -/
def reqPtr (w : Request) : BitVec 32 := w.extractLsb' 80 32

/-- The request decoder: `OP` alone selects the operation (R92, R94), and of the other fields only those of R93 are
read; bits 6:5 and 127:112 influence nothing (R95). -/
def decodeRequest (w : Request) : Except DecodeError Instr :=
  match (reqOp w).toNat with
  | 0x00 => .ok .init
  | 0x01 => .ok (.setpos (reqX w) (reqY w))
  | 0x02 => .ok (.flushpage (reqCh w))
  | 0x03 => .ok .flush
  | 0x04 => .ok .clrbuf
  | 0x05 => .ok .clear
  | 0x06 => .ok (.setpixel (reqColor w) (reqX w) (reqY w))
  | 0x07 => .ok (.drawbitmap (reqX w) (reqY w) (reqW w) (reqH w) (reqPtr w))
  | 0x08 => .ok (.drawhline (reqColor w) (reqX w) (reqY w) (reqW w))
  | 0x09 => .ok (.drawvline (reqColor w) (reqX w) (reqY w) (reqW w))
  | 0x0A => .ok (.drawrect (reqColor w) (reqX w) (reqY w) (reqW w) (reqH w))
  | 0x0B => .ok (.drawchar8 (reqCh w) (reqX w) (reqY w))
  | 0x0C => .ok (.drawchar6 (reqCh w) (reqX w) (reqY w))
  | 0x0D => .ok (.drawchar5 (reqCh w) (reqX w) (reqY w))
  | 0x0E => .ok (.drawstr8 (reqX w) (reqY w) (reqW w) (reqPtr w))
  | 0x0F => .ok (.drawstr6 (reqX w) (reqY w) (reqW w) (reqPtr w))
  | 0x10 => .ok (.drawstr5 (reqX w) (reqY w) (reqW w) (reqPtr w))
  | _ => .error (.reservedOp (reqOp w))

/-- The 128-bit word of 16 serialised bytes, byte 0 = `req[7:0]` first (R61, R90). -/
def requestOfBytes (bs : List Byte) : Request :=
  BitVec.ofNat 128 (bs.foldr (fun b n => b.toNat + 256 * n) 0)

/-- The 16 bytes of a request word, least significant byte first (R61, R90). -/
def bytesOfRequest (w : Request) : List Byte :=
  (List.range 16).map fun k => w.extractLsb' (8 * k) 8

/-! ### Command bytes (R102, R103, R200) -/

/-- A `C2` command: the opcode byte has been read, one argument follows (R102). -/
def oneArg (b : Byte) (f : Byte → Instr) : List Byte → Except DecodeError (Instr × List Byte)
  | a :: rest => .ok (f a, rest)
  | [] => .error (.cutShort b)

/-- A `C3` command: the opcode byte has been read, two arguments follow (R102). -/
def twoArgs (b : Byte) (f : Byte → Byte → Instr) : List Byte → Except DecodeError (Instr × List Byte)
  | a :: c :: rest => .ok (f a c, rest)
  | _ => .error (.cutShort b)

/-- One command off the front of a `CMD` payload, with the bytes after it: "parsed left to right by these lengths, so
an argument byte is never taken for an opcode" (R200). -/
def decodeCommand : List Byte → Except DecodeError (Instr × List Byte)
  | [] => .error .noByte
  | b :: rest =>
    if b &&& 0xF0#8 = 0x00#8 then .ok (.setcollo (b.extractLsb' 0 4), rest)
    else if b &&& 0xF0#8 = 0x10#8 then .ok (.setcolhi (b.extractLsb' 0 4), rest)
    else if b = 0x20#8 then oneArg b .addrmode rest
    else if b = 0x21#8 then twoArgs b .colrange rest
    else if b = 0x22#8 then twoArgs b .pagerange rest
    else if b &&& 0xC0#8 = 0x40#8 then .ok (.startline (b.extractLsb' 0 6), rest)
    else if b = 0x81#8 then oneArg b .contrast rest
    else if b = 0x8D#8 then oneArg b .chargepump rest
    else if b &&& 0xFE#8 = 0xA0#8 then .ok (.segremap (b.getLsbD 0), rest)
    else if b = 0xA8#8 then oneArg b .muxratio rest
    else if b = 0xAE#8 then .ok (.dispoff, rest)
    else if b = 0xAF#8 then .ok (.dispon, rest)
    else if b &&& 0xF8#8 = 0xB0#8 then .ok (.setpage (b.extractLsb' 0 3), rest)
    else if b &&& 0xF7#8 = 0xC0#8 then .ok (.comscan (b.getLsbD 3), rest)
    else if b = 0xD3#8 then oneArg b .dispoffset rest
    else if b = 0xD5#8 then oneArg b .clockdiv rest
    else if b = 0xDA#8 then oneArg b .compins rest
    else if b = 0xDB#8 then oneArg b .vcomh rest
    else .error (.unknownCommand b)

/-- The commands of a payload, first byte first (R80), and the bytes left over where no command starts. The first
argument bounds the number of commands; a payload of n bytes holds at most n. -/
def parseCommandsUpTo : Nat → List Byte → List Instr × List Byte
  | 0, bs => ([], bs)
  | n + 1, bs =>
    match decodeCommand bs with
    | .ok (i, rest) => (i :: (parseCommandsUpTo n rest).1, (parseCommandsUpTo n rest).2)
    | .error _ => ([], bs)

/-- A whole `CMD` payload as commands (R80, R200). -/
def parseCommands (bs : List Byte) : List Instr × List Byte :=
  parseCommandsUpTo bs.length bs

/-- The decoder over bytes, at either port: the instruction and the bytes after it, or the error's name. -/
def decode : Port → List Byte → Except DecodeError (Instr × List Byte)
  | .request, bs =>
    if bs.length < 16 then .error .shortRequest
    else match decodeRequest (requestOfBytes (bs.take 16)) with
      | .ok i => .ok (i, bs.drop 16)
      | .error e => .error e
  | .device, bs => decodeCommand bs

/-! ### The encoder -/

/-- The request word with the given fields, reserved bits 0 (R90). -/
def packRequest (op : BitVec 5) (color : Bool := false) (ch : BitVec 8 := 0) (x y w h : BitVec 16 := 0)
    (ptr : BitVec 32 := 0) : Request :=
  BitVec.ofNat 128 (op.toNat + 2 ^ 7 * color.toNat + 2 ^ 8 * ch.toNat + 2 ^ 16 * x.toNat + 2 ^ 32 * y.toNat +
    2 ^ 48 * w.toNat + 2 ^ 64 * h.toNat + 2 ^ 80 * ptr.toNat)

/-- The request word of a request (R92, R98: "fields not named are assembled as 0"); for a command, which has none,
the word of its bytes is not used and 0 stands here. -/
def encodeRequest : Instr → Request
  | .init => packRequest 0x00#5
  | .setpos x y => packRequest 0x01#5 (x := x) (y := y)
  | .flushpage ch => packRequest 0x02#5 (ch := ch)
  | .flush => packRequest 0x03#5
  | .clrbuf => packRequest 0x04#5
  | .clear => packRequest 0x05#5
  | .setpixel color x y => packRequest 0x06#5 (color := color) (x := x) (y := y)
  | .drawbitmap x y w h ptr => packRequest 0x07#5 (x := x) (y := y) (w := w) (h := h) (ptr := ptr)
  | .drawhline color x y w => packRequest 0x08#5 (color := color) (x := x) (y := y) (w := w)
  | .drawvline color x y w => packRequest 0x09#5 (color := color) (x := x) (y := y) (w := w)
  | .drawrect color x y w h => packRequest 0x0A#5 (color := color) (x := x) (y := y) (w := w) (h := h)
  | .drawchar8 ch x y => packRequest 0x0B#5 (ch := ch) (x := x) (y := y)
  | .drawchar6 ch x y => packRequest 0x0C#5 (ch := ch) (x := x) (y := y)
  | .drawchar5 ch x y => packRequest 0x0D#5 (ch := ch) (x := x) (y := y)
  | .drawstr8 x y w ptr => packRequest 0x0E#5 (x := x) (y := y) (w := w) (ptr := ptr)
  | .drawstr6 x y w ptr => packRequest 0x0F#5 (x := x) (y := y) (w := w) (ptr := ptr)
  | .drawstr5 x y w ptr => packRequest 0x10#5 (x := x) (y := y) (w := w) (ptr := ptr)
  | .setcollo _ => 0
  | .setcolhi _ => 0
  | .addrmode _ => 0
  | .colrange _ _ => 0
  | .pagerange _ _ => 0
  | .startline _ => 0
  | .contrast _ => 0
  | .chargepump _ => 0
  | .segremap _ => 0
  | .muxratio _ => 0
  | .dispoff => 0
  | .dispon => 0
  | .setpage _ => 0
  | .comscan _ => 0
  | .dispoffset _ => 0
  | .clockdiv _ => 0
  | .compins _ => 0
  | .vcomh _ => 0

/-- The bytes of an instruction: a command's opcode and argument bytes (R103, R200 to R218), or a request's 16 bytes. -/
def encode : Instr → List Byte
  | .setcollo n => [0x0#4 ++ n]
  | .setcolhi n => [0x1#4 ++ n]
  | .addrmode a => [0x20, a]
  | .colrange lo hi => [0x21, lo, hi]
  | .pagerange lo hi => [0x22, lo, hi]
  | .startline l => [0b01#2 ++ l]
  | .contrast a => [0x81, a]
  | .chargepump a => [0x8D, a]
  | .segremap r => [0b1010000#7 ++ BitVec.ofBool r]
  | .muxratio a => [0xA8, a]
  | .dispoff => [0xAE]
  | .dispon => [0xAF]
  | .setpage p => [0b10110#5 ++ p]
  | .comscan d => [0xC#4 ++ BitVec.ofBool d ++ 0#3]
  | .dispoffset a => [0xD3, a]
  | .clockdiv a => [0xD5, a]
  | .compins a => [0xDA, a]
  | .vcomh a => [0xDB, a]
  | .init => bytesOfRequest (encodeRequest .init)
  | .setpos x y => bytesOfRequest (encodeRequest (.setpos x y))
  | .flushpage ch => bytesOfRequest (encodeRequest (.flushpage ch))
  | .flush => bytesOfRequest (encodeRequest .flush)
  | .clrbuf => bytesOfRequest (encodeRequest .clrbuf)
  | .clear => bytesOfRequest (encodeRequest .clear)
  | .setpixel color x y => bytesOfRequest (encodeRequest (.setpixel color x y))
  | .drawbitmap x y w h ptr => bytesOfRequest (encodeRequest (.drawbitmap x y w h ptr))
  | .drawhline color x y w => bytesOfRequest (encodeRequest (.drawhline color x y w))
  | .drawvline color x y w => bytesOfRequest (encodeRequest (.drawvline color x y w))
  | .drawrect color x y w h => bytesOfRequest (encodeRequest (.drawrect color x y w h))
  | .drawchar8 ch x y => bytesOfRequest (encodeRequest (.drawchar8 ch x y))
  | .drawchar6 ch x y => bytesOfRequest (encodeRequest (.drawchar6 ch x y))
  | .drawchar5 ch x y => bytesOfRequest (encodeRequest (.drawchar5 ch x y))
  | .drawstr8 x y w ptr => bytesOfRequest (encodeRequest (.drawstr8 x y w ptr))
  | .drawstr6 x y w ptr => bytesOfRequest (encodeRequest (.drawstr6 x y w ptr))
  | .drawstr5 x y w ptr => bytesOfRequest (encodeRequest (.drawstr5 x y w ptr))

/-! ### The opcode table's numbering -/

/-- The port a row of the opcode table belongs to, from its bits alone. A request row's 128 bits come as 128, or cut to
the one byte the table fixes; a command row has 8, 16 or 24. One byte is ambiguous between the two tables where both
use it: the request codes 0x00 to 0x10 are read as requests. DESIGN CHOICE, log entry 9. -/
def tablePort (nbits w : Nat) : Port :=
  if nbits = 16 ∨ nbits = 24 then .device
  else if nbits = 8 ∧ 0x10 < w then .device
  else .request

/-- A command row's bytes: the table numbers its bits with the first byte highest. -/
def tableBytes (nbits w : Nat) : List Byte :=
  if nbits = 24 then [BitVec.ofNat 8 (w / 65536), BitVec.ofNat 8 (w / 256), BitVec.ofNat 8 w]
  else if nbits = 16 then [BitVec.ofNat 8 (w / 256), BitVec.ofNat 8 w]
  else [BitVec.ofNat 8 w]

/-- The instruction this decoder reads from an instruction whose bits, numbered as spec/opcode_table.json numbers
them, are `w`; none where it refuses, or where bytes are left over. -/
def decodeTableWord (nbits w : Nat) : Option Instr :=
  match tablePort nbits w with
  | .request =>
    match decodeRequest (BitVec.ofNat 128 w) with
    | .ok i => some i
    | .error _ => none
  | .device =>
    match decodeCommand (tableBytes nbits w) with
    | .ok (i, []) => some i
    | .ok (_, _ :: _) => none
    | .error _ => none

end Sys2Proof
end

