-- ==== Sys2Proof/Machine/State.lean ====
section
/-! DEFINITION. The state: the block's registers and framebuffer (R20 to R29), the record of its outputs (R30, R32),
the memories and parameters it reads (R34, R35, R38), the inputs not yet taken (R12, R32, R33), and the mirror of the
display device (R79). All of it plain data. -/

namespace Sys2Proof.Machine

/-- A memory: the bytes written so far, by address. Canonical form: addresses strictly rising (log entry 1). -/
abbrev Memory := List Host.Cell

/-- `STATUS` (R17, R24, R230). -/
inductive Status where
  | ok
  | errTransport
  | errNotInit
  | errIllegal
  deriving DecidableEq, Repr

/-- The operand latches (R26). -/
structure Latches where
  op    : BitVec 5
  color : Bool
  ch    : BitVec 8
  x     : BitVec 16
  y     : BitVec 16
  w     : BitVec 16
  h     : BitVec 16
  ptr   : BitVec 32
  deriving DecidableEq, Repr

/-- The sequencer position `SEQ` (R27). -/
structure Seq where
  pg : Nat
  ph : Nat
  i  : Nat
  j  : Nat
  k  : Nat
  deriving DecidableEq, Repr

/-- `SEQ` at its start value: all zero (R27). -/
def Seq.start : Seq := { pg := 0, ph := 0, i := 0, j := 0, k := 0 }

/-- The cursor `CUR` (R28). -/
structure Cursor where
  x : Int
  y : Int
  deriving DecidableEq, Repr

/-- `DEV.set`: the last value written to each remaining setting of the device (R79). -/
structure DevSettings where
  muxRatio   : Byte
  chargePump : Byte
  comPins    : Byte
  segRemap   : Bool
  comScan    : Bool
  dispOffset : Byte
  startLine  : BitVec 6
  contrast   : Byte
  clockDiv   : Byte
  vcomh      : Byte
  deriving DecidableEq, Repr

/-- The mirror `DEV` of the display device (R79). `inbox` is the part of a `CMD` payload received and not yet parsed
(empty between requests), `drawn` the model's counter of free values taken. -/
structure Dev where
  ram      : Memory
  pg       : Nat
  col      : Nat
  mode     : AddrMode
  colStart : Nat
  colEnd   : Nat
  pgStart  : Nat
  pgEnd    : Nat
  on       : Bool
  set      : DevSettings
  inbox    : List Byte
  drawn    : Nat
  deriving DecidableEq, Repr

/-- The whole machine. -/
structure State where
  /-- `CHIP` (R22). -/
  chip : Chip
  /-- `H64` (R22). -/
  h64 : Bool
  /-- `FB` by flat address page × 128 + column (R21, R51). -/
  fb : Memory
  /-- `INITED` (R23). -/
  inited : Bool
  /-- `STATUS` (R24). -/
  status : Status
  /-- `BUSY` (R25). -/
  busy : Bool
  /-- The operand latches (R26). -/
  latch : Latches
  /-- `SEQ` (R27). -/
  seq : Seq
  /-- `CUR` (R28). -/
  cur : Cursor
  /-- `GB`, 8 bytes (R29). -/
  gb : List Byte
  /-- `TB`, 8 bytes (R29). -/
  tb : List Byte
  /-- `TR` (R30), oldest first. -/
  trace : List Event
  /-- The statuses given at the response port (R32), oldest first. -/
  responses : List Status
  /-- `SRC`: the bytes of host memory given (R35, R53). -/
  src : Memory
  /-- `G8`: the bytes of the 8×8 font table given, at index × 8 + k (R34, R52). -/
  g8 : Memory
  /-- `G6`, at index × 6 + k (R34, R52). -/
  g6 : Memory
  /-- `G5`, at index × 5 + k (R34, R52). -/
  g5 : Memory
  /-- The parameter `INIT_SEQ` when one is given; it must meet R122 to R126 to count (`initPayload`). None is the default
  sequence of R127 for the variant. -/
  initSeq : Option (List Byte)
  /-- Requests presented at the request port and not yet accepted (R32), in order. -/
  requests : List Request
  /-- The transport's answers to the next messages (R33), in order; when the list is empty the answer is free. -/
  answers : List Answer
  /-- The number of free answers taken so far. -/
  answersDrawn : Nat
  /-- The device mirror (R79). -/
  dev : Dev
  deriving DecidableEq, Repr

/-- Why the machine stops. Nothing the block does stops it (R57, R236): no meaning of an instruction raises a fault. -/
inductive Fault where
  /-- Raised by `step` only, when the bytes left in the device's inbox end inside a command; the spec says what a whole
  command does and nothing of part of one. Safe: no payload the block builds ends so. -/
  | commandCutShort (b : Byte)
  deriving DecidableEq, Repr

/-- Why the machine gives no meaning. -/
inductive Refusal where
  /-- An instruction whose arm has no meaning yet. Raised by `exec`'s refused arms only. Safe. -/
  | notModelled (mnemonic : String)
  /-- Raised by `step` only, when the next byte in the device's inbox is the opcode of no command of table `CB`; the spec
  does not say what the device does with it. Safe: no payload the block builds holds one. -/
  | unknownCommand (b : Byte)
  deriving DecidableEq, Repr

/-- The latches after reset: unspecified (R37); zero is a DESIGN CHOICE, log entry 5. -/
def Latches.reset : Latches :=
  { op := 0, color := false, ch := 0, x := 0, y := 0, w := 0, h := 0, ptr := 0 }

/-- The device's settings at power-up: unspecified (R79); zero is a DESIGN CHOICE, log entry 6. -/
def DevSettings.reset : DevSettings :=
  { muxRatio := 0, chargePump := 0, comPins := 0, segRemap := false, comScan := false, dispOffset := 0,
    startLine := 0, contrast := 0, clockDiv := 0, vcomh := 0 }

/-- The device at power-up: every field is unspecified (R79), and its memory lists nothing. Zero, and `other` for the
addressing mode (the value that says least), are a DESIGN CHOICE, log entry 6. -/
def Dev.reset : Dev :=
  { ram := [], pg := 0, col := 0, mode := .other, colStart := 0, colEnd := 0, pgStart := 0, pgEnd := 0, on := false,
    set := DevSettings.reset, inbox := [], drawn := 0 }

/-- The machine right after reset with the given straps (R22, R36, R37, R260): variant from the straps, `INITED` 0,
`STATUS` `OK`, `BUSY` 0, `SEQ` at its start, `TR` empty, `FB` listing nothing; what R37 calls unspecified at the values
of log entry 5; nothing presented at any input. -/
def State.resetWith (chip : Chip) (h64 : Bool) : State :=
  { chip := chip, h64 := h64, fb := [], inited := false, status := .ok, busy := false, latch := Latches.reset,
    seq := Seq.start, cur := { x := 0, y := 0 }, gb := List.replicate 8 0, tb := List.replicate 8 0,
    trace := [], responses := [], src := [], g8 := [], g6 := [], g5 := [], initSeq := none,
    requests := [], answers := [], answersDrawn := 0, dev := Dev.reset }

/-- The machine right after reset (R37, R260), with the straps of `Config` (log entry 2). -/
def State.reset : State := State.resetWith Config.cfgChip Config.cfgH64

end Sys2Proof.Machine
end

