-- ==== Sys2Proof/Machine/Flags.lean ====
section
/-! DEFINITION. The block's flags (R23 to R25): the status codes and what an answer makes of `STATUS` and `INITED`. -/

namespace Sys2Proof.Machine

/-- The two-bit code of a status (R17, R230). -/
def Status.code : Status → BitVec 2
  | .ok => 0
  | .errTransport => 1
  | .errNotInit => 2
  | .errIllegal => 3

/-- The status an operation ends with when its last message was answered so (R120, R138, R139). -/
def statusOfAnswer : Answer → Status
  | .ok => .ok
  | .fail => .errTransport

/-- `INITED` after INIT's one message was answered so (R120, R121). -/
def initedOfAnswer : Answer → Bool
  | .ok => true
  | .fail => false

/-- The causes for which an operation ends early (R230). -/
inductive Cause where
  | transport
  | notInit
  | illegal
  deriving DecidableEq, Repr

/-- The status that reports a cause (R230). -/
def Cause.status : Cause → Status
  | .transport => .errTransport
  | .notInit => .errNotInit
  | .illegal => .errIllegal

end Sys2Proof.Machine
end

