-- ==== Sys2Proof/Machine/Variant.lean ====
section
/-! DEFINITION. What the variant registers determine (R9, R10, R22): geometry, column offset, addressing mode, flush
strategy; and the font constants (R11, R52, R190). -/

namespace Sys2Proof.Machine

/-- `HEIGHT` (R10): 64 when `H64` is 1, else 32. -/
def height (h64 : Bool) : Nat := if h64 then 64 else 32

/-- `PAGES` = `HEIGHT` / 8 (R10). -/
def pages (h64 : Bool) : Nat := height h64 / 8

/-- The number of framebuffer bytes, `PAGES` × 128 (R10, R51). -/
def fbSize (h64 : Bool) : Nat := pages h64 * Config.width

/-- `COLOFF` (R9, R58). -/
def colOff : Chip → Nat
  | .ssd1306 => 0
  | .sh1106 => 2

/-- `ADDRMODE` (R9). -/
def addrModeOf : Chip → AddrMode
  | .ssd1306 => .horizontal
  | .sh1106 => .page

/-- `FLUSHSTRAT` (R9). -/
def flushStrategy : Chip → FlushStrategy
  | .ssd1306 => .single
  | .sh1106 => .split

/-- `DEV_COLS` (R11, R54): the source gives 132 for SH1106; 128 for SSD1306 is PRESUMED (93 GK9), log entry 8. -/
def devCols : Chip → Nat
  | .ssd1306 => 128
  | .sh1106 => 132

/-- The DisplayVariant of the two variant registers (R9, R22). -/
def variantOf (chip : Chip) (h64 : Bool) : DisplayVariant :=
  { chip := chip, height := height h64, colOff := colOff chip, addrMode := addrModeOf chip,
    strategy := flushStrategy chip }

/-- Bytes of a stored glyph (R34, R52); for fonts 6 and 5, and for font 8 after transposition, its columns too. -/
def glyphCols : Font → Nat
  | .f8 => 8
  | .f6 => 6
  | .f5 => 5

/-- `ADV` (R190). -/
def advance : Font → Nat
  | .f8 => 8
  | .f6 => 7
  | .f5 => 6

/-- `GLYPH_OPAQUE` (R187, D13): clear glyph bits clear pixels. DESIGN CHOICE of the spec; log entry 12. -/
def glyphOpaque : Bool := true

end Sys2Proof.Machine
end

