-- ==== Sys2Proof/Machine/Memory.lean ====
section
/-! DEFINITION. Memories as sorted lists of cells, bounded loops, and the four address spaces of R50: reading and
writing one byte of each. -/

namespace Sys2Proof.Machine

/-- `for i in 0..n-1` (R16): applies `f 0`, `f 1`, ..., `f (n-1)` in that order. -/
def forUp {α : Type} : Nat → (Nat → α → α) → α → α
  | 0, _, a => a
  | n + 1, f, a => f n (forUp n f a)

namespace Memory

/-- The byte a memory lists at an address, if it lists one. -/
def read? : Memory → Nat → Option Byte
  | [], _ => none
  | (k, v) :: m, a => if a < k then none else if a = k then some v else read? m a

/-- Stores one byte, keeping the addresses strictly rising. -/
def write : Memory → Nat → Byte → Memory
  | [], a, v => [(a, v)]
  | (k, w) :: m, a, v =>
    if a < k then (a, v) :: (k, w) :: m else if a = k then (a, v) :: m else (k, w) :: write m a v

/-- Every listed address is at least `lo`, and they rise strictly. -/
def risingFrom : Nat → Memory → Bool
  | _, [] => true
  | lo, (k, _) :: m => decide (lo ≤ k) && risingFrom (k + 1) m

/-- The canonical form: addresses strictly rising. An unlisted address has no value of its own to compare with: what it
reads as is a free value of its address space (log entry 1). -/
def wf (m : Memory) : Bool := risingFrom 0 m

/-- Every listed address is below `n`. -/
def below (n : Nat) (m : Memory) : Bool := m.all fun c => decide (c.1 < n)

end Memory

/-! ### `FB` (R51) -/

/-- The flat address of `FB[p][c]` (R51). -/
def fbAddr (p c : Nat) : Nat := p * Config.width + c

/-- `MemRead(FB, a, 1)`: the last byte written there, or the unspecified power-up byte (R37, R51). -/
def fbRead (fb : Memory) (a : Nat) : Byte := (Memory.read? fb a).getD (Config.fbPowerUp a)

/-- `FB[p][c]` (R21, R51). -/
def fbByte (fb : Memory) (p c : Nat) : Byte := fbRead fb (fbAddr p c)

/-- The framebuffer with every one of its `PAGES` × 128 bytes 0 (R150). -/
def fbZero (h64 : Bool) : Memory := (List.range (fbSize h64)).map fun a => (a, 0#8)

/-- The bit of the display pixel (x, y): bit `y mod 8` of `FB[y div 8][x]` (R21, R60). -/
def fbPixel (fb : Memory) (x y : Nat) : Bool := (fbByte fb (y / 8) x).getLsbD (y % 8)

/-- `PAGEDATA(p)` (R105): the 128 bytes of page `p`, in increasing column order. -/
def pageData (fb : Memory) (p : Nat) : List Byte := (List.range Config.width).map fun c => fbByte fb p c

/-! ### `SRC` (R35, R53) and `GLYPH` (R34, R52) -/

/-- `SrcRead(addr)` for a 32-bit address: the byte given there, or a free one. -/
def srcRead (src : Memory) (a : Nat) : Byte := (Memory.read? src a).getD (Config.srcByte a)

/-- The address presented for byte `offset` of an object at `PTR`: the sum wraps modulo 2^32 (R53). -/
def srcAddr (ptr : BitVec 32) (offset : Nat) : Nat := (ptr.toNat + offset) % 2 ^ 32

/-- The glyph table of a font. -/
def glyphTable (s : State) : Font → Memory
  | .f8 => s.g8
  | .f6 => s.g6
  | .f5 => s.g5

/-- `GlyphRead(font, idx, k)` (R34): byte `k` of glyph `idx`, at `idx` × size + `k` of the table (R52). -/
def glyphRead (s : State) (font : Font) (idx k : Nat) : Byte :=
  (Memory.read? (glyphTable s font) (idx * glyphCols font + k)).getD
    (Config.glyphByte font (idx * glyphCols font + k))

/-! ### `DEV` (R54, R79) -/

/-- Device page `pg`, device column `dc` as one address. -/
def devAddr (pg dc : Nat) : Nat := pg * 256 + dc

/-- `DEV.ram[pg][dc]`: the last byte written, or the unspecified power-up byte (R79). -/
def devByte (ram : Memory) (pg dc : Nat) : Byte :=
  (Memory.read? ram (devAddr pg dc)).getD (Config.devPowerUp (devAddr pg dc))

/-- The pixel the display shows at (x, y): bit `y mod 8` of `DEV.ram[y div 8][x + COLOFF]` (R83), under the flip,
offset and start-line settings of the init sequence (log entry 8). -/
def devPixel (chip : Chip) (ram : Memory) (x y : Nat) : Bool := (devByte ram (y / 8) (x + colOff chip)).getLsbD (y % 8)

end Sys2Proof.Machine
end

