-- ==== Sys2Proof/Machine/Mirror.lean ====
section
/-! DEFINITION. The mirror of the display device (R78 to R84): what each controller command does to it (R201 to R218),
how it takes data bytes (R80 to R82), and what is unspecified after a failed message (R84). -/

namespace Sys2Proof.Machine

/-! ### Free values (U8, U9, U10) -/

/-- A free device column, within the device's columns (R79). -/
def freeCol (chip : Chip) (n : Nat) : Nat := (Config.deviceByte n).toNat % devCols chip

/-- A free device page, within 0..7 (R79). -/
def freePage (n : Nat) : Nat := (Config.deviceByte n).toNat % 8

/-- A free addressing mode (R79). -/
def freeMode (n : Nat) : AddrMode :=
  match (Config.deviceByte n).toNat % 3 with
  | 0 => .horizontal
  | 1 => .page
  | _ => .other

namespace Dev

/-- The column pointer becomes unspecified. -/
def losesCol (chip : Chip) (d : Dev) : Dev := { d with col := freeCol chip d.drawn, drawn := d.drawn + 1 }

/-- The page pointer becomes unspecified. -/
def losesPage (d : Dev) : Dev := { d with pg := freePage d.drawn, drawn := d.drawn + 1 }

/-- The whole write pointer becomes unspecified. -/
def losesPointer (chip : Chip) (d : Dev) : Dev := (d.losesPage).losesCol chip

/-! ### The commands -/

/-- `SETCOLLO(n)` (R217): the column's low nibble in page mode; in horizontal mode the effect on the column is
unspecified (U10). That it is so in mode other, which R217 leaves out, is the model's choice: log entry 7. -/
def setColLo (chip : Chip) (n : BitVec 4) (d : Dev) : Dev :=
  match d.mode with
  | .page => { d with col := d.col / 16 * 16 + n.toNat }
  | .horizontal => d.losesCol chip
  | .other => d.losesCol chip

/-- `SETCOLHI(n)` (R218): the column's high nibble in page mode; in the other two modes as `setColLo`. -/
def setColHi (chip : Chip) (n : BitVec 4) (d : Dev) : Dev :=
  match d.mode with
  | .page => { d with col := n.toNat * 16 + d.col % 16 }
  | .horizontal => d.losesCol chip
  | .other => d.losesCol chip

/-- `SETPAGE(p)` (R216): the page in page mode; in horizontal mode the effect on the page is unspecified (U10), and in mode
other too, by the model's choice: log entry 7. -/
def setPage (p : BitVec 3) (d : Dev) : Dev :=
  match d.mode with
  | .page => { d with pg := p.toNat }
  | .horizontal => d.losesPage
  | .other => d.losesPage

/-- `ADDRMODE(a)` (R205). -/
def addrMode (a : Byte) (d : Dev) : Dev :=
  { d with mode := if a = 0x00#8 then .horizontal else if a = 0x02#8 then .page else .other }

/-- `COLRANGE(s, e)` (R206): the range, and the column pointer to its start. -/
def colRange (lo hi : Byte) (d : Dev) : Dev := { d with colStart := lo.toNat, colEnd := hi.toNat, col := lo.toNat }

/-- `PAGERANGE(s, e)` (R207): the range, and the page pointer to its start. -/
def pageRange (lo hi : Byte) (d : Dev) : Dev := { d with pgStart := lo.toNat, pgEnd := hi.toNat, pg := lo.toNat }

/-- `DISPOFF` (R201): `DEV.ram` is unchanged. -/
def dispOff (d : Dev) : Dev := { d with on := false }

/-- `DISPON` (R202). -/
def dispOn (d : Dev) : Dev := { d with on := true }

/-- `MUXRATIO(a)` (R203): recorded; `drivenRows` is read off it. -/
def muxRatio (a : Byte) (d : Dev) : Dev := { d with set := { d.set with muxRatio := a } }

/-- `CHARGEPUMP(a)` (R204). -/
def chargePump (a : Byte) (d : Dev) : Dev := { d with set := { d.set with chargePump := a } }

/-- `COMPINS(a)` (R208). -/
def comPins (a : Byte) (d : Dev) : Dev := { d with set := { d.set with comPins := a } }

/-- `SEGREMAP(r)` (R209). -/
def segRemap (r : Bool) (d : Dev) : Dev := { d with set := { d.set with segRemap := r } }

/-- `COMSCAN(d)` (R210). -/
def comScan (down : Bool) (d : Dev) : Dev := { d with set := { d.set with comScan := down } }

/-- `DISPOFFSET(a)` (R211). -/
def dispOffset (a : Byte) (d : Dev) : Dev := { d with set := { d.set with dispOffset := a } }

/-- `STARTLINE(l)` (R212). -/
def startLine (l : BitVec 6) (d : Dev) : Dev := { d with set := { d.set with startLine := l } }

/-- `CONTRAST(a)` (R213). -/
def contrast (a : Byte) (d : Dev) : Dev := { d with set := { d.set with contrast := a } }

/-- `CLOCKDIV(a)` (R214). -/
def clockDiv (a : Byte) (d : Dev) : Dev := { d with set := { d.set with clockDiv := a } }

/-- `VCOMH(a)` (R215). -/
def vcomh (a : Byte) (d : Dev) : Dev := { d with set := { d.set with vcomh := a } }

/-- The number of rows the device drives: `HEIGHT` when the multiplex ratio is `HEIGHT` − 1 (R203). R203 gives none for
another byte, and there it is a free value: DESIGN CHOICE, log entry 7. -/
def drivenRows (h64 : Bool) (d : Dev) : Nat :=
  if d.set.muxRatio.toNat + 1 = height h64 then height h64 else Config.otherRows d.set.muxRatio

/-- One command applied to the device by its own rule (R80). A request is no command: `decodeCommand` never gives one,
and the device ignores it. -/
def command (chip : Chip) : Instr → Dev → Dev
  | .setcollo n, d => d.setColLo chip n
  | .setcolhi n, d => d.setColHi chip n
  | .addrmode a, d => d.addrMode a
  | .colrange lo hi, d => d.colRange lo hi
  | .pagerange lo hi, d => d.pageRange lo hi
  | .startline l, d => d.startLine l
  | .contrast a, d => d.contrast a
  | .chargepump a, d => d.chargePump a
  | .segremap r, d => d.segRemap r
  | .muxratio a, d => d.muxRatio a
  | .dispoff, d => d.dispOff
  | .dispon, d => d.dispOn
  | .setpage p, d => d.setPage p
  | .comscan down, d => d.comScan down
  | .dispoffset a, d => d.dispOffset a
  | .clockdiv a, d => d.clockDiv a
  | .compins a, d => d.comPins a
  | .vcomh a, d => d.vcomh a
  | .init, d => d
  | .setpos _ _, d => d
  | .flushpage _, d => d
  | .flush, d => d
  | .clrbuf, d => d
  | .clear, d => d
  | .setpixel _ _ _, d => d
  | .drawbitmap _ _ _ _ _, d => d
  | .drawhline _ _ _ _, d => d
  | .drawvline _ _ _ _, d => d
  | .drawrect _ _ _ _ _, d => d
  | .drawchar8 _ _ _, d => d
  | .drawchar6 _ _ _, d => d
  | .drawchar5 _ _ _, d => d
  | .drawstr8 _ _ _ _, d => d
  | .drawstr6 _ _ _ _, d => d
  | .drawstr5 _ _ _ _, d => d

/-! ### Data bytes -/

/-- The pointer after a data byte: R81 in horizontal mode, R82 in page mode; past the last column in page mode the
column is unspecified (U9), and in mode other the whole pointer, by the model's choice: log entry 7. -/
def advance (chip : Chip) (d : Dev) : Dev :=
  match d.mode with
  | .horizontal =>
    if d.col < d.colEnd then { d with col := d.col + 1 }
    else { d with col := d.colStart, pg := if d.pg < d.pgEnd then d.pg + 1 else d.pgStart }
  | .page => if d.col + 1 < devCols chip then { d with col := d.col + 1 } else d.losesCol chip
  | .other => d.losesPointer chip

/-- `DEV.ram[DEV.pg][DEV.col] <- v` (R80). A pointer outside the device's memory, which only ranges or nibbles no
operation of the block sends can set up, stores nothing: log entry 8. -/
def store (chip : Chip) (v : Byte) (d : Dev) : Dev :=
  if d.pg < 8 ∧ d.col < devCols chip then { d with ram := d.ram.write (devAddr d.pg d.col) v } else d

/-- One data byte: stored, then the pointer advances (R80). -/
def dataByte (chip : Chip) (d : Dev) (v : Byte) : Dev := (d.store chip v).advance chip

/-! ### Messages -/

/-- A `CMD` message answered `ok` (R80): its payload is parsed and each command applied, first byte first; bytes where
no command starts stay in the inbox. -/
def takeCmd (chip : Chip) (payload : List Byte) (d : Dev) : Dev :=
  let parsed := parseCommands (d.inbox ++ payload)
  { parsed.1.foldl (fun d i => d.command chip i) { d with inbox := [] } with inbox := parsed.2 }

/-- A `DATA` message answered `ok` (R80). -/
def takeData (chip : Chip) (payload : List Byte) (d : Dev) : Dev := payload.foldl (dataByte chip) d

/-- The fields one command of a failed message could have written become unspecified (R84). -/
def loseCommand (chip : Chip) : Instr → Dev → Dev
  | .setcollo _, d => d.losesCol chip
  | .setcolhi _, d => d.losesCol chip
  | .addrmode _, d => { d with mode := freeMode d.drawn, drawn := d.drawn + 1 }
  | .colrange _ _, d =>
    { d with colStart := (Config.deviceByte d.drawn).toNat, colEnd := (Config.deviceByte (d.drawn + 1)).toNat,
             col := freeCol chip (d.drawn + 2), drawn := d.drawn + 3 }
  | .pagerange _ _, d =>
    { d with pgStart := (Config.deviceByte d.drawn).toNat, pgEnd := (Config.deviceByte (d.drawn + 1)).toNat,
             pg := freePage (d.drawn + 2), drawn := d.drawn + 3 }
  | .startline _, d => { d.startLine ((Config.deviceByte d.drawn).extractLsb' 0 6) with drawn := d.drawn + 1 }
  | .contrast _, d => { d.contrast (Config.deviceByte d.drawn) with drawn := d.drawn + 1 }
  | .chargepump _, d => { d.chargePump (Config.deviceByte d.drawn) with drawn := d.drawn + 1 }
  | .segremap _, d => { d.segRemap ((Config.deviceByte d.drawn).getLsbD 0) with drawn := d.drawn + 1 }
  | .muxratio _, d => { d.muxRatio (Config.deviceByte d.drawn) with drawn := d.drawn + 1 }
  | .dispoff, d => { d with on := (Config.deviceByte d.drawn).getLsbD 0, drawn := d.drawn + 1 }
  | .dispon, d => { d with on := (Config.deviceByte d.drawn).getLsbD 0, drawn := d.drawn + 1 }
  | .setpage _, d => d.losesPage
  | .comscan _, d => { d.comScan ((Config.deviceByte d.drawn).getLsbD 0) with drawn := d.drawn + 1 }
  | .dispoffset _, d => { d.dispOffset (Config.deviceByte d.drawn) with drawn := d.drawn + 1 }
  | .clockdiv _, d => { d.clockDiv (Config.deviceByte d.drawn) with drawn := d.drawn + 1 }
  | .compins _, d => { d.comPins (Config.deviceByte d.drawn) with drawn := d.drawn + 1 }
  | .vcomh _, d => { d.vcomh (Config.deviceByte d.drawn) with drawn := d.drawn + 1 }
  | .init, d => d
  | .setpos _ _, d => d
  | .flushpage _, d => d
  | .flush, d => d
  | .clrbuf, d => d
  | .clear, d => d
  | .setpixel _ _ _, d => d
  | .drawbitmap _ _ _ _ _, d => d
  | .drawhline _ _ _ _, d => d
  | .drawvline _ _ _ _, d => d
  | .drawrect _ _ _ _ _, d => d
  | .drawchar8 _ _ _, d => d
  | .drawchar6 _ _ _, d => d
  | .drawchar5 _ _ _, d => d
  | .drawstr8 _ _ _ _, d => d
  | .drawstr6 _ _ _ _, d => d
  | .drawstr5 _ _ _ _, d => d

/-- A `CMD` message answered `fail` (R84): every field it could have written is unspecified. -/
def loseCmd (chip : Chip) (payload : List Byte) (d : Dev) : Dev :=
  (parseCommands payload).1.foldl (fun d i => d.loseCommand chip i) d

/-- The free bytes that stand for a failed data message's payload. -/
def freeBytes (from_ n : Nat) : List Byte := (List.range n).map fun k => Config.deviceByte (from_ + k)

/-- A `DATA` message answered `fail` (R84): the bytes from the pointer on, as many as it carried, and the pointer are
unspecified. -/
def loseData (chip : Chip) (payload : List Byte) (d : Dev) : Dev :=
  (({ d with drawn := d.drawn + payload.length }).takeData chip (freeBytes d.drawn payload.length)).losesPointer chip

/-- The device and one message (R80, R84). -/
def deliver (chip : Chip) (e : Event) (d : Dev) : Dev :=
  match e.answer, e.mode with
  | .ok, .cmd => d.takeCmd chip e.payload
  | .ok, .data => d.takeData chip e.payload
  | .fail, .cmd => d.loseCmd chip e.payload
  | .fail, .data => d.loseData chip e.payload

end Dev

end Sys2Proof.Machine
end

