-- ==== Sys2Proof/Machine/Operands.lean ====
section
/-! DEFINITION. The operand forms: sign and zero extension (R91), the pixel-address generator (R55, R56), bitmap and
glyph indexing (R59, R183), the device column and the position payload (R58, R104). -/

namespace Sys2Proof.Machine

/-- `int(X)`, `int(Y)` (R91): two's complement, `nat(X)` − 65536 when bit 15 is 1. -/
def signed (x : BitVec 16) : Int := x.toInt

/-- `nat(W)`, `nat(H)` (R91). -/
def unsigned (w : BitVec 16) : Nat := w.toNat

/-- A framebuffer position: the valid output of the pixel-address generator (R55). -/
structure PixelPos where
  page : Nat
  col  : Nat
  bit  : Nat
  deriving DecidableEq, Repr

/-- `PAG(x, y)` (R55): none when `valid` is false. -/
def pag (h64 : Bool) (x y : Int) : Option PixelPos :=
  if 0 ≤ x ∧ x < Config.width ∧ 0 ≤ y ∧ y < height h64 then
    some { page := y.toNat / 8, col := x.toNat, bit := y.toNat % 8 }
  else none

/-- `PAG` on N-bit two's complement inputs, bit by bit (R56): `valid` is the test of the high bits for zero; the page is
`y[5:3]`, the column `x[6:0]`, the bit `y[2:0]`. -/
def pagBits (h64 : Bool) {n : Nat} (x y : BitVec n) : Option PixelPos :=
  if x.extractLsb' 7 (n - 7) = 0 ∧ (if h64 then y.extractLsb' 6 (n - 6) = 0 else y.extractLsb' 5 (n - 5) = 0) then
    some { page := (y.extractLsb' 3 3).toNat, col := (x.extractLsb' 0 7).toNat, bit := (y.extractLsb' 0 3).toNat }
  else none

/-- The framebuffer address a call of `SetPixel` stores to, if it stores (R51, R55, R152). -/
def pixelAddr (h64 : Bool) (x y : Int) : Option Nat :=
  match pag h64 x y with
  | some p => some (fbAddr p.page p.col)
  | none => none

/-- The byte `SetPixel` stores: one bit set or cleared (R152, R153). -/
def plotBit (old : Byte) (bit : Nat) (color : Bool) : Byte :=
  if color then old ||| (1#8 <<< bit) else old &&& ~~~(1#8 <<< bit)

/-- `SetPixel(x, y, color)` (R152): read-modify-write of one byte, or nothing when (x, y) is off the display. -/
def setPixel (h64 : Bool) (x y : Int) (color : Bool) (fb : Memory) : Memory :=
  match pag h64 x y with
  | some p => fb.write (fbAddr p.page p.col) (plotBit (fbByte fb p.page p.col) p.bit color)
  | none => fb

/-- `byteIndex` of the bitmap pixel (col, row) (R59). -/
def byteIndex (w col row : Nat) : Nat := row / 8 * w + col

/-- `GlyphIndex(c)` (R183): codes outside 32..127 give the space glyph. -/
def glyphIndex (c : Byte) : Nat := if c.toNat < 32 ∨ 127 < c.toNat then 0 else c.toNat - 32

/-- The device column of framebuffer column `c` (R58). -/
def deviceColumn (chip : Chip) (c : Nat) : Nat := c + colOff chip

/-- `POS(page, dc)` (R104): SETPAGE, low nibble, high nibble, as commands. -/
def posCommands (page dc : Nat) : List Instr :=
  [.setpage (BitVec.ofNat 3 page), .setcollo (BitVec.ofNat 4 (dc % 16)), .setcolhi (BitVec.ofNat 4 (dc / 16))]

/-- The bytes of a list of commands, in order (R102). -/
def encodeCommands (cs : List Instr) : List Byte := cs.flatMap encode

/-- `POS(page, dc)` as bytes (R104). -/
def posPayload (page dc : Nat) : List Byte := encodeCommands (posCommands page dc)

/-- The control byte of a mode (R101); PRESUMED (93 GK1), log entry 8. -/
def controlByte : BusMode → Byte
  | .cmd => 0x00
  | .data => 0x40

/-- The wire image of a message (R101): one control byte, then the payload. -/
def wireImage (mode : BusMode) (payload : List Byte) : List Byte := controlByte mode :: payload

/-- What the bus master port carries for one message (R33): address, wire bytes, their count, and the timeout. -/
structure BusCall where
  address : BitVec 7
  bytes   : List Byte
  length  : Nat
  timeout : Nat
  deriving DecidableEq, Repr

/-- The call of the transport's `transmit` for a message (R33, R101, R246). -/
def busCall (mode : BusMode) (payload : List Byte) : BusCall :=
  { address := Config.devAddr, bytes := wireImage mode payload, length := (wireImage mode payload).length,
    timeout := Config.timeoutTicks }

/-- SETPOS's operands lie on the display (R130, R131). -/
def posInRange (h64 : Bool) (x y : Int) : Bool :=
  decide (0 ≤ x ∧ x < Config.width ∧ 0 ≤ y ∧ y < pages h64)

end Sys2Proof.Machine
end

