-- ==== Sys2Proof/Machine/Ops.lean ====
section
/-! DEFINITION. The named operations over the state: accepting and completing a request (R32), ending one early (R232,
R234, R235: the block's whole exception mechanism), and handing a message to the transport (R30, R33, R80, R84). -/

namespace Sys2Proof.Machine

namespace State

/-! ### Accepting, completing -/

/-- The latches of an accepted request word (R26, R90). -/
def latchesOf (w : Request) : Latches :=
  { op := reqOp w, color := reqColor w, ch := reqCh w, x := reqX w, y := reqY w, w := reqW w, h := reqH w,
    ptr := reqPtr w }

/-- The block accepts the request `w`, `rest` being the requests still waiting (R32): `BUSY` is set, the latches are
loaded, `SEQ` is at its start (R27). -/
def accept (w : Request) (rest : List Request) (s : State) : State :=
  { s with busy := true, latch := latchesOf w, seq := Seq.start, requests := rest }

/-- The operation completes with a status (R24, R32): the response is given, `STATUS` holds the same value, `BUSY`
falls, `SEQ` is back at its start (R27). -/
def complete (st : Status) (s : State) : State :=
  { s with status := st, busy := false, seq := Seq.start, responses := s.responses ++ [st] }

/-- The block's one exception entry (R232, R234, R235): the operation ends at once with the cause's status. "Nothing is
saved, no mode changes, control goes nowhere"; there is no return from it (R238). -/
def raise (c : Cause) (s : State) : State := s.complete c.status

/-- Reset of the block while everything around it goes on (R260, R261, R37), the straps sampled as given. The device
keeps "whatever they had" of its memory, pointer and settings; the memories the block reads (R38) and the
inputs not yet taken stay. `fb` is what `FB` then holds, which R37 leaves unspecified: claims quantify over it. The
registers R37 leaves unspecified are those of log entry 5; an input the step never takes, log entry 18. `INIT_SEQ` is open
for every variant (R11), but the one list the state holds stays: after a reset with other straps it is not legal for the
new variant and INIT sends that variant's default. DESIGN CHOICE, log entries 14 and 18. -/
def resetBlock (chip : Chip) (h64 : Bool) (fb : Memory) (s : State) : State :=
  { State.resetWith chip h64 with
    fb := fb, dev := s.dev, src := s.src, g8 := s.g8, g6 := s.g6, g5 := s.g5, initSeq := s.initSeq,
    requests := s.requests, answers := s.answers, answersDrawn := s.answersDrawn }

/-! ### Registers written inside an operation -/

/-- `FB` becomes `fb`. -/
def withFb (fb : Memory) (s : State) : State := { s with fb := fb }

/-- `INITED` becomes `b` (R23). -/
def withInited (b : Bool) (s : State) : State := { s with inited := b }

/-- `SEQ` becomes `q` (R27). -/
def withSeq (q : Seq) (s : State) : State := { s with seq := q }

/-- `CUR` becomes `c` (R28). -/
def withCur (c : Cursor) (s : State) : State := { s with cur := c }

/-- The first bytes of `GB` become `bs`, the rest stay (R29). -/
def loadGb (bs : List Byte) (s : State) : State := { s with gb := bs ++ s.gb.drop bs.length }

/-- The first bytes of `TB` become `bs`, the rest stay (R29). -/
def loadTb (bs : List Byte) (s : State) : State := { s with tb := bs ++ s.tb.drop bs.length }

/-- The device becomes `d`. -/
def withDev (d : Dev) (s : State) : State := { s with dev := d }

/-! ### The transport -/

/-- The answer the transport will give to the `k`-th message from now (R33): one of those listed, else a free one. -/
def answerAt (s : State) (k : Nat) : Answer :=
  match s.answers[k]? with
  | some a => a
  | none => if Config.transportOk (s.answersDrawn + (k - s.answers.length)) then .ok else .fail

/-- One answer is taken. -/
def dropAnswer (s : State) : State :=
  match s.answers with
  | [] => { s with answersDrawn := s.answersDrawn + 1 }
  | _ :: rest => { s with answers := rest }

/-- The event is appended to `TR` (R30) and reaches the device (R80, R84). -/
def record (e : Event) (s : State) : State :=
  { s with trace := s.trace ++ [e], dev := s.dev.deliver s.chip e }

/-- `Transmit(mode, payload)` (R33): the state after it. Its answer is `s.answerAt 0`. -/
def transmit (mode : BusMode) (payload : List Byte) (s : State) : State :=
  s.dropAnswer.record { mode := mode, payload := payload, answer := s.answerAt 0 }

end State

/-- The state of an operation that transmits, between two of its messages: the answer to its last message, and the
state. -/
structure Progress where
  answer : Answer
  state  : State
  deriving DecidableEq, Repr

namespace Progress

/-- `Send(mode, payload)`: one message, and its answer. -/
def send (mode : BusMode) (payload : List Byte) (s : State) : Progress :=
  { answer := s.answerAt 0, state := s.transmit mode payload }

/-- The rest of an operation after `Send`: performed if the answer was `ok`; after `fail` "the operation sends no further
message and performs no further step" (R232, R139). -/
def andThen (p : Progress) (f : State → Progress) : Progress :=
  match p.answer with
  | .ok => f p.state
  | .fail => p

/-- The end of an operation that transmits: `OK`, or `raise TransportFailure` (R139, R232). -/
def finish (p : Progress) : State :=
  match p.answer with
  | .ok => p.state.complete .ok
  | .fail => p.state.raise .transport

end Progress

end Sys2Proof.Machine
end

