-- ==== Sys2Proof/Machine/Device.lean ====
section
/-! DEFINITION. The controller commands as instructions: each is carried out by the display device alone, on its
mirror (R200 to R218); the block's own state is untouched. -/

namespace Sys2Proof.Machine

/-- SETCOLLO (R217). -/
def execSetcollo (n : BitVec 4) (s : State) : Host.Outcome State Fault Refusal := .next (s.withDev (s.dev.setColLo s.chip n))

/-- SETCOLHI (R218). -/
def execSetcolhi (n : BitVec 4) (s : State) : Host.Outcome State Fault Refusal := .next (s.withDev (s.dev.setColHi s.chip n))

/-- ADDRMODE (R205). -/
def execAddrmode (a : Byte) (s : State) : Host.Outcome State Fault Refusal := .next (s.withDev (s.dev.addrMode a))

/-- COLRANGE (R206). -/
def execColrange (lo hi : Byte) (s : State) : Host.Outcome State Fault Refusal := .next (s.withDev (s.dev.colRange lo hi))

/-- PAGERANGE (R207). -/
def execPagerange (lo hi : Byte) (s : State) : Host.Outcome State Fault Refusal := .next (s.withDev (s.dev.pageRange lo hi))

/-- STARTLINE (R212). -/
def execStartline (l : BitVec 6) (s : State) : Host.Outcome State Fault Refusal := .next (s.withDev (s.dev.startLine l))

/-- CONTRAST (R213). -/
def execContrast (a : Byte) (s : State) : Host.Outcome State Fault Refusal := .next (s.withDev (s.dev.contrast a))

/-- CHARGEPUMP (R204). -/
def execChargepump (a : Byte) (s : State) : Host.Outcome State Fault Refusal := .next (s.withDev (s.dev.chargePump a))

/-- SEGREMAP (R209). -/
def execSegremap (r : Bool) (s : State) : Host.Outcome State Fault Refusal := .next (s.withDev (s.dev.segRemap r))

/-- MUXRATIO (R203). -/
def execMuxratio (a : Byte) (s : State) : Host.Outcome State Fault Refusal := .next (s.withDev (s.dev.muxRatio a))

/-- DISPOFF (R201). -/
def execDispoff (s : State) : Host.Outcome State Fault Refusal := .next (s.withDev (s.dev.dispOff))

/-- DISPON (R202). -/
def execDispon (s : State) : Host.Outcome State Fault Refusal := .next (s.withDev (s.dev.dispOn))

/-- SETPAGE (R216). -/
def execSetpage (p : BitVec 3) (s : State) : Host.Outcome State Fault Refusal := .next (s.withDev (s.dev.setPage p))

/-- COMSCAN (R210). -/
def execComscan (d : Bool) (s : State) : Host.Outcome State Fault Refusal := .next (s.withDev (s.dev.comScan d))

/-- DISPOFFSET (R211). -/
def execDispoffset (a : Byte) (s : State) : Host.Outcome State Fault Refusal := .next (s.withDev (s.dev.dispOffset a))

/-- CLOCKDIV (R214). -/
def execClockdiv (a : Byte) (s : State) : Host.Outcome State Fault Refusal := .next (s.withDev (s.dev.clockDiv a))

/-- COMPINS (R208). -/
def execCompins (a : Byte) (s : State) : Host.Outcome State Fault Refusal := .next (s.withDev (s.dev.comPins a))

/-- VCOMH (R215). -/
def execVcomh (a : Byte) (s : State) : Host.Outcome State Fault Refusal := .next (s.withDev (s.dev.vcomh a))

end Sys2Proof.Machine
end

