-- ==== Sys2Proof/Machine/InitSeq.lean ====
section
/-! DEFINITION. The initialisation sequence: the default of R127, the constraints R122 to R126 on any other, and the
payload INIT sends (R120). -/

namespace Sys2Proof.Machine

/-- The multiplex-ratio argument `M` = `HEIGHT` − 1 (R126, R127, R203); PRESUMED (93 GK4), log entry 8. -/
def muxArg (h64 : Bool) : Byte := BitVec.ofNat 8 (height h64 - 1)

/-- The COM pin argument `CP` (R127, R208); PRESUMED (93 GK4), log entry 8. -/
def comPinsArg (h64 : Bool) : Byte := if h64 then 0x12 else 0x02

/-- The last page `P` = `PAGES` − 1 (R126, R127, R207). -/
def lastPageArg (h64 : Bool) : Byte := BitVec.ofNat 8 (pages h64 - 1)

/-- The default `INIT_SEQ` as commands, in R127's order. PRESUMED values (93 GK2 to GK8), log entry 8. -/
def defaultInitSeq (chip : Chip) (h64 : Bool) : List Instr :=
  match chip with
  | .ssd1306 =>
    [.muxratio (muxArg h64), .chargepump 0x14, .addrmode 0x00, .colrange 0x00 0x7F, .pagerange 0x00 (lastPageArg h64),
     .compins (comPinsArg h64), .segremap true, .comscan true, .dispon]
  | .sh1106 =>
    [.dispoff, .muxratio (muxArg h64), .dispoffset 0x00, .startline 0x00, .contrast 0x7F, .clockdiv 0x80, .vcomh 0x40,
     .chargepump 0x14, .addrmode 0x02, .compins (comPinsArg h64), .segremap true, .comscan true, .dispon]

/-- The addressing-mode argument: horizontal for SSD1306, page for SH1106 (R126); PRESUMED (93 GK4), log entry 8. -/
def modeArg (chip : Chip) : Byte :=
  match chip with
  | .ssd1306 => 0x00
  | .sh1106 => 0x02

/-- What an initialisation sequence of the variant may hold: every command whose argument depends on the variant with
that argument (R126), the charge pump on (R123), zero offset and start line (R124), the SH1106 additions on SH1106 alone
(R124). The position commands are emitted by SETPOS and the split flush only (table of R200); requests are no commands. -/
def initCommandOk (chip : Chip) (h64 : Bool) : Instr → Bool
  | .muxratio a => a == muxArg h64
  | .chargepump a => a == 0x14
  | .addrmode a => a == modeArg chip
  | .colrange lo hi => lo == 0x00 && hi == 0x7F
  | .pagerange lo hi => lo == 0x00 && hi == lastPageArg h64
  | .compins a => a == comPinsArg h64
  | .segremap _ => true
  | .comscan _ => true
  | .dispon => true
  | .dispoff => chip == .sh1106
  | .dispoffset a => chip == .sh1106 && a == 0x00
  | .startline l => chip == .sh1106 && l == 0
  | .contrast _ => chip == .sh1106
  | .clockdiv _ => chip == .sh1106
  | .vcomh _ => chip == .sh1106
  | .setpage _ => false
  | .setcollo _ => false
  | .setcolhi _ => false
  | .init => false
  | .setpos _ _ => false
  | .flushpage _ => false
  | .flush => false
  | .clrbuf => false
  | .clear => false
  | .setpixel _ _ _ => false
  | .drawbitmap _ _ _ _ _ => false
  | .drawhline _ _ _ _ => false
  | .drawvline _ _ _ _ => false
  | .drawrect _ _ _ _ _ => false
  | .drawchar8 _ _ _ => false
  | .drawchar6 _ _ _ => false
  | .drawchar5 _ _ _ => false
  | .drawstr8 _ _ _ _ => false
  | .drawstr6 _ _ _ _ => false
  | .drawstr5 _ _ _ _ => false

/-- The commands every variant's sequence holds (R123, R126); the addressing mode is set once (90_conflicts.md C7). -/
def initEveryVariant (chip : Chip) (h64 : Bool) (cs : List Instr) : Bool :=
  cs.contains (.muxratio (muxArg h64)) && cs.contains (.chargepump 0x14) && cs.count (.addrmode (modeArg chip)) == 1 &&
  cs.contains (.compins (comPinsArg h64)) &&
  (cs.contains (.segremap false) || cs.contains (.segremap true)) &&
  (cs.contains (.comscan false) || cs.contains (.comscan true))

/-- The sequence holds a contrast, a clock-divide and a VCOMH command, whatever their arguments (R124). -/
def initLevels (cs : List Instr) : Bool :=
  (cs.any fun i => match i with | .contrast _ => true | _ => false) &&
  (cs.any fun i => match i with | .clockdiv _ => true | _ => false) &&
  (cs.any fun i => match i with | .vcomh _ => true | _ => false)

/-- What R123 to R126 demand of the commands of an initialisation sequence; on every variant `DISPON` is the last one
(R125, R202). -/
def initCommandsOk (chip : Chip) (h64 : Bool) (cs : List Instr) : Bool :=
  cs.all (initCommandOk chip h64) && initEveryVariant chip h64 cs && decide (cs.getLast? = some .dispon) &&
  match chip with
  | .ssd1306 => cs.contains (.colrange 0x00 0x7F) && cs.contains (.pagerange 0x00 (lastPageArg h64))
  | .sh1106 =>
    cs.contains (.dispoffset 0x00) && cs.contains (.startline 0) && initLevels cs && cs.dropLast.contains .dispoff

/-- A payload is a legal `INIT_SEQ` (R122 to R126): commands and nothing else, as the variant demands, and few enough
bytes for the one message it is (R33, R122). -/
def initSeqOk (chip : Chip) (h64 : Bool) (bs : List Byte) : Bool :=
  (parseCommands bs).2.isEmpty && initCommandsOk chip h64 (parseCommands bs).1 &&
  decide (bs.length ≤ Config.maxPayload)

/-- `INIT_SEQ(CHIP, HEIGHT)` (R11, R127, D10): the parameter when the state gives one, else the default. The parameter
"satisfies rules R122 to R126" (R127); a list that does not is no `INIT_SEQ`, and the default stands: log entry 14. -/
def initPayload (s : State) : List Byte :=
  match s.initSeq with
  | some bs => if initSeqOk s.chip s.h64 bs then bs else encodeCommands (defaultInitSeq s.chip s.h64)
  | none => encodeCommands (defaultInitSeq s.chip s.h64)

end Sys2Proof.Machine
end

