-- ==== Sys2Proof/Machine/Controller.lean ====
section
/-! DEFINITION. The DisplayController's operations: INIT, SETPOS, FLUSHPAGE, FLUSH (R120 to R140). -/

namespace Sys2Proof.Machine

/-- INIT (R120): one `CMD` message; `INITED` and `STATUS` by its answer. A failed INIT clears `INITED` (R121). -/
def execInit (s : State) : Host.Outcome State Fault Refusal :=
  .next (((s.transmit .cmd (initPayload s)).withInited (initedOfAnswer (s.answerAt 0))).complete
    (statusOfAnswer (s.answerAt 0)))

/-- SETPOS (R130, R131, R234): the `INITED` test, then the operand test, then one position message. -/
def execSetpos (x y : BitVec 16) (s : State) : Host.Outcome State Fault Refusal :=
  .next
    (if s.inited then
      if posInRange s.h64 (signed x) (signed y) then
        (Progress.send .cmd (posPayload (signed y).toNat (deviceColumn s.chip (signed x).toNat)) s).finish
      else s.complete .ok
    else s.raise .notInit)

/-- The body of FLUSHPAGE for a page below `PAGES` (R133): by flush strategy one data message (R135), or a position
message and then, only if it was answered `ok`, the data message (R137). R27 gives `PH` its values for the split
strategy alone; that it is 1 while the single strategy sends its data message is a DESIGN CHOICE, log entry 13. -/
def sendPage (p : Nat) (s : State) : Progress :=
  match flushStrategy s.chip with
  | .single => Progress.send .data (pageData s.fb p) (s.withSeq { s.seq with pg := p, ph := 1 })
  | .split =>
    (Progress.send .cmd (posPayload p (deviceColumn s.chip 0)) (s.withSeq { s.seq with pg := p, ph := 0 })).andThen
      fun s => Progress.send .data (pageData s.fb p) (s.withSeq { s.seq with pg := p, ph := 1 })

/-- The pages 0 to n − 1 in increasing order (R138), up to the first failing message (R139). -/
def sendPages : Nat → State → Progress
  | 0, s => { answer := .ok, state := s }
  | n + 1, s => (sendPages n s).andThen (sendPage n)

/-- FLUSHPAGE (R133, R134, R234). -/
def execFlushpage (ch : BitVec 8) (s : State) : Host.Outcome State Fault Refusal :=
  .next
    (if s.inited then
      if ch.toNat < pages s.h64 then (sendPage ch.toNat s).finish else s.complete .ok
    else s.raise .notInit)

/-- FLUSH (R138, R139, R234). -/
def execFlush (s : State) : Host.Outcome State Fault Refusal :=
  .next (if s.inited then (sendPages (pages s.h64) s).finish else s.raise .notInit)

end Sys2Proof.Machine
end

