-- ==== Sys2Proof/Machine/Framebuffer.lean ====
section
/-! DEFINITION. The framebuffer operations: CLRBUF, CLEAR, SETPIXEL (R150 to R153). -/

namespace Sys2Proof.Machine

/-- CLRBUF (R150). -/
def execClrbuf (s : State) : Host.Outcome State Fault Refusal :=
  .next ((s.withFb (fbZero s.h64)).complete .ok)

/-- CLEAR (R151): the buffer is cleared in every case; then the `INITED` test, then FLUSH's body on the cleared buffer. -/
def execClear (s : State) : Host.Outcome State Fault Refusal :=
  .next
    (if s.inited then (sendPages (pages s.h64) (s.withFb (fbZero s.h64))).finish
    else (s.withFb (fbZero s.h64)).raise .notInit)

/-- SETPIXEL (R152). -/
def execSetpixel (color : Bool) (x y : BitVec 16) (s : State) : Host.Outcome State Fault Refusal :=
  .next ((s.withFb (setPixel s.h64 (signed x) (signed y) color s.fb)).complete .ok)

end Sys2Proof.Machine
end

