-- ==== Sys2Proof/Machine/Glyph.lean ====
section
/-! DEFINITION. The BitTransposer and the GlyphRenderer: DRAWCHAR8, 6, 5 and DRAWSTR8, 6, 5 (R180 to R194). -/

namespace Sys2Proof.Machine

/-- `Transpose(in, width, height)` (R180): bit `ry` of output byte `cx` is bit `cx` of input byte `ry`. -/
def transpose (rows : List Byte) (width height : Nat) : List Byte :=
  (List.range width).map fun cx =>
    forUp height (fun ry out => if (rows.getD ry 0).getLsbD cx then out ||| (1#8 <<< ry) else out) 0#8

/-- `Blit(x, y, cols, n)` (R187): the first `n` columns of 8 rows, clear bits plotted because glyphs are opaque. -/
def blit (h64 : Bool) (x y : Int) (cols : List Byte) (n : Nat) (fb : Memory) : Memory :=
  forUp n (fun col fb =>
    forUp 8 (fun row fb =>
      if glyphOpaque || (cols.getD col 0).getLsbD row then
        setPixel h64 (x + (col : Int)) (y + (row : Int)) ((cols.getD col 0).getLsbD row) fb
      else fb) fb) fb

/-- The stored bytes of the glyph of a character code, in table order (R183, R184 to R186). -/
def glyphBytes (s : State) (font : Font) (c : Byte) : List Byte :=
  (List.range (glyphCols font)).map fun k => glyphRead s font (glyphIndex c) k

/-- A glyph's columns as they are blitted: font 8 is stored by rows and transposed, fonts 6 and 5 are stored by columns
(R184, R185, R188). -/
def glyphColumns (s : State) (font : Font) (c : Byte) : List Byte :=
  match font with
  | .f8 => transpose (glyphBytes s font c) 8 8
  | .f6 => glyphBytes s font c
  | .f5 => glyphBytes s font c

/-- `Char8`, `Char6`, `Char5` (R184 to R186): `GB` is loaded, for font 8 `TB` takes the transpose, and the columns are
blitted. -/
def drawChar (font : Font) (x y : Int) (c : Byte) (s : State) : State :=
  match font with
  | .f8 =>
    (((s.loadGb (glyphBytes s .f8 c)).loadTb (glyphColumns s .f8 c)).withFb
      (blit s.h64 x y (glyphColumns s .f8 c) (glyphCols .f8) s.fb))
  | .f6 => (s.loadGb (glyphBytes s .f6 c)).withFb (blit s.h64 x y (glyphColumns s .f6 c) (glyphCols .f6) s.fb)
  | .f5 => (s.loadGb (glyphBytes s .f5 c)).withFb (blit s.h64 x y (glyphColumns s .f5 c) (glyphCols .f5) s.fb)

/-- The `k`-th byte of a text (R53, R191). -/
def textByte (s : State) (ptr : BitVec 32) (k : Nat) : Byte := srcRead s.src (srcAddr ptr k)

/-- One character of a string (R191 to R193): drawn at the cursor, which then advances. -/
def drawNext (font : Font) (y : Int) (ptr : BitVec 32) (k : Nat) (s : State) : State :=
  let t := drawChar font s.cur.x y (textByte s ptr k) (s.withSeq { s.seq with k := k })
  t.withCur { x := t.cur.x + (advance font : Int), y := y }

/-- `DRAWSTR`'s loop (R191 to R193): the cursor starts at (x, y); exactly `n` characters, in text order, no wrapping. -/
def drawString (font : Font) (x y : Int) (n : Nat) (ptr : BitVec 32) (s : State) : State :=
  forUp n (drawNext font y ptr) (s.withCur { x := x, y := y })

/-- DRAWCHAR8 (R184). -/
def execDrawchar8 (ch : BitVec 8) (x y : BitVec 16) (s : State) : Host.Outcome State Fault Refusal :=
  .next ((drawChar .f8 (signed x) (signed y) ch s).complete .ok)

/-- DRAWCHAR6 (R185). -/
def execDrawchar6 (ch : BitVec 8) (x y : BitVec 16) (s : State) : Host.Outcome State Fault Refusal :=
  .next ((drawChar .f6 (signed x) (signed y) ch s).complete .ok)

/-- DRAWCHAR5 (R186). -/
def execDrawchar5 (ch : BitVec 8) (x y : BitVec 16) (s : State) : Host.Outcome State Fault Refusal :=
  .next ((drawChar .f5 (signed x) (signed y) ch s).complete .ok)

/-- DRAWSTR8 (R191). -/
def execDrawstr8 (x y w : BitVec 16) (ptr : BitVec 32) (s : State) : Host.Outcome State Fault Refusal :=
  .next ((drawString .f8 (signed x) (signed y) (unsigned w) ptr s).complete .ok)

/-- DRAWSTR6 (R192). -/
def execDrawstr6 (x y w : BitVec 16) (ptr : BitVec 32) (s : State) : Host.Outcome State Fault Refusal :=
  .next ((drawString .f6 (signed x) (signed y) (unsigned w) ptr s).complete .ok)

/-- DRAWSTR5 (R193). -/
def execDrawstr5 (x y w : BitVec 16) (ptr : BitVec 32) (s : State) : Host.Outcome State Fault Refusal :=
  .next ((drawString .f5 (signed x) (signed y) (unsigned w) ptr s).complete .ok)

end Sys2Proof.Machine
end

