-- ==== Sys2Proof/Machine/Raster.lean ====
section
/-! DEFINITION. The ShapeRasterizer's operations: DRAWBITMAP, DRAWHLINE, DRAWVLINE, DRAWRECT (R160 to R173). They reach
`FB` through `setPixel` alone, and always complete with `OK`. -/

namespace Sys2Proof.Machine

/-- The bit of the bitmap pixel (col, row) (R59, R160): bit `row mod 8` of the byte at `byteIndex`. -/
def bitmapBit (src : Memory) (ptr : BitVec 32) (w col row : Nat) : Bool :=
  (srcRead src (srcAddr ptr (byteIndex w col row))).getLsbD (row % 8)

/-- DRAWBITMAP's loops (R160): row by row, each row left to right; every bit is plotted, 0 bits too. -/
def drawBitmap (h64 : Bool) (src : Memory) (ptr : BitVec 32) (x y : Int) (w h : Nat) (fb : Memory) : Memory :=
  forUp h (fun row fb =>
    forUp w (fun col fb => setPixel h64 (x + (col : Int)) (y + (row : Int)) (bitmapBit src ptr w col row) fb) fb) fb

/-- The length of a line clipped against the edge `dim` (R164, R168): `dim − start` when it would overflow. -/
def clipLength (start len dim : Int) : Int := if dim < start + len then dim - start else len

/-- `HLine(x, y, len, color)` (R164). -/
def hLine (h64 : Bool) (x y : Int) (len : Nat) (color : Bool) (fb : Memory) : Memory :=
  if y < 0 ∨ (height h64 : Int) ≤ y then fb
  else if clipLength x len Config.width ≤ 0 then fb
  else forUp (clipLength x len Config.width).toNat (fun i fb => setPixel h64 (x + (i : Int)) y color fb) fb

/-- `VLine(x, y, len, color)` (R168). -/
def vLine (h64 : Bool) (x y : Int) (len : Nat) (color : Bool) (fb : Memory) : Memory :=
  if x < 0 ∨ (Config.width : Int) ≤ x then fb
  else if clipLength y len (height h64) ≤ 0 then fb
  else forUp (clipLength y len (height h64)).toNat (fun i fb => setPixel h64 x (y + (i : Int)) color fb) fb

/-- DRAWRECT's four lines (R172): top, bottom, left, right; none when a side is zero. -/
def drawRect (h64 : Bool) (x y : Int) (w h : Nat) (color : Bool) (fb : Memory) : Memory :=
  if w = 0 ∨ h = 0 then fb
  else
    vLine h64 (x + (w : Int) - 1) y h color
      (vLine h64 x y h color
        (hLine h64 x (y + (h : Int) - 1) w color
          (hLine h64 x y w color fb)))

/-- DRAWBITMAP (R160). -/
def execDrawbitmap (x y w h : BitVec 16) (ptr : BitVec 32) (s : State) : Host.Outcome State Fault Refusal :=
  .next ((s.withFb (drawBitmap s.h64 s.src ptr (signed x) (signed y) (unsigned w) (unsigned h) s.fb)).complete .ok)

/-- DRAWHLINE (R164). -/
def execDrawhline (color : Bool) (x y w : BitVec 16) (s : State) : Host.Outcome State Fault Refusal :=
  .next ((s.withFb (hLine s.h64 (signed x) (signed y) (unsigned w) color s.fb)).complete .ok)

/-- DRAWVLINE (R168). -/
def execDrawvline (color : Bool) (x y w : BitVec 16) (s : State) : Host.Outcome State Fault Refusal :=
  .next ((s.withFb (vLine s.h64 (signed x) (signed y) (unsigned w) color s.fb)).complete .ok)

/-- DRAWRECT (R172). -/
def execDrawrect (color : Bool) (x y w h : BitVec 16) (s : State) : Host.Outcome State Fault Refusal :=
  .next ((s.withFb (drawRect s.h64 (signed x) (signed y) (unsigned w) (unsigned h) color s.fb)).complete .ok)

end Sys2Proof.Machine
end

