-- ==== Sys2Proof/Machine/Dispatch.lean ====
section
/-! DEFINITION. The meaning of every instruction: one arm per row of spec/opcode_table.json. -/

namespace Sys2Proof.Machine

def exec (i : Instr) (s : State) : Host.Outcome State Fault Refusal :=
  match i with
  | .init => Sys2Proof.Machine.execInit s
  | .setpos x y => Sys2Proof.Machine.execSetpos x y s
  | .flushpage ch => Sys2Proof.Machine.execFlushpage ch s
  | .flush => Sys2Proof.Machine.execFlush s
  | .clrbuf => Sys2Proof.Machine.execClrbuf s
  | .clear => Sys2Proof.Machine.execClear s
  | .setpixel color x y => Sys2Proof.Machine.execSetpixel color x y s
  | .drawbitmap x y w h ptr => Sys2Proof.Machine.execDrawbitmap x y w h ptr s
  | .drawhline color x y w => Sys2Proof.Machine.execDrawhline color x y w s
  | .drawvline color x y w => Sys2Proof.Machine.execDrawvline color x y w s
  | .drawrect color x y w h => Sys2Proof.Machine.execDrawrect color x y w h s
  | .drawchar8 ch x y => Sys2Proof.Machine.execDrawchar8 ch x y s
  | .drawchar6 ch x y => Sys2Proof.Machine.execDrawchar6 ch x y s
  | .drawchar5 ch x y => Sys2Proof.Machine.execDrawchar5 ch x y s
  | .drawstr8 x y w ptr => Sys2Proof.Machine.execDrawstr8 x y w ptr s
  | .drawstr6 x y w ptr => Sys2Proof.Machine.execDrawstr6 x y w ptr s
  | .drawstr5 x y w ptr => Sys2Proof.Machine.execDrawstr5 x y w ptr s
  | .setcollo n => Sys2Proof.Machine.execSetcollo n s
  | .setcolhi n => Sys2Proof.Machine.execSetcolhi n s
  | .addrmode a => Sys2Proof.Machine.execAddrmode a s
  | .colrange lo hi => Sys2Proof.Machine.execColrange lo hi s
  | .pagerange lo hi => Sys2Proof.Machine.execPagerange lo hi s
  | .startline l => Sys2Proof.Machine.execStartline l s
  | .contrast a => Sys2Proof.Machine.execContrast a s
  | .chargepump a => Sys2Proof.Machine.execChargepump a s
  | .segremap r => Sys2Proof.Machine.execSegremap r s
  | .muxratio a => Sys2Proof.Machine.execMuxratio a s
  | .dispoff => Sys2Proof.Machine.execDispoff s
  | .dispon => Sys2Proof.Machine.execDispon s
  | .setpage p => Sys2Proof.Machine.execSetpage p s
  | .comscan d => Sys2Proof.Machine.execComscan d s
  | .dispoffset a => Sys2Proof.Machine.execDispoffset a s
  | .clockdiv a => Sys2Proof.Machine.execClockdiv a s
  | .compins a => Sys2Proof.Machine.execCompins a s
  | .vcomh a => Sys2Proof.Machine.execVcomh a s

end Sys2Proof.Machine
end

