-- ==== Sys2Proof/Machine/Fetch.lean ====
section
/-! DEFINITION. What the machine does next: the command bytes the device has still to parse, else the next request the
block accepts, else nothing (R12, R32, R80); and what a reserved request does (R95, R235). -/

namespace Sys2Proof.Machine

/-- What stands next at the machine's two inputs. -/
inductive Fetched where
  /-- Nothing to do: the block is idle with no request presented (R260), or, with `BUSY` set, accepts none (R32). -/
  | idle
  /-- The instruction, and the state in which it is carried out. -/
  | run (i : Instr) (s : State)
  /-- A request was accepted whose operation code is reserved (R95). -/
  | reserved (s : State)
  /-- The device's next byte starts no command of table `CB`. -/
  | unknown (b : Byte)
  /-- The device's bytes end inside a command. -/
  | cutShort (b : Byte)
  deriving DecidableEq, Repr

/-- The device's next command, out of its inbox. -/
def fetchCommand (s : State) : Fetched :=
  match decode .device s.dev.inbox with
  | .ok (i, rest) => .run i (s.withDev { s.dev with inbox := rest })
  | .error (.cutShort b) => .cutShort b
  | .error (.unknownCommand b) => .unknown b
  | .error (.reservedOp _) => .idle
  | .error .shortRequest => .idle
  | .error .noByte => .idle

/-- The block's next request: accepted only while `BUSY` is 0 (R32). -/
def fetchRequest (s : State) : Fetched :=
  if s.busy then .idle
  else match s.requests with
    | [] => .idle
    | w :: rest =>
      match decodeRequest w with
      | .ok i => .run i (s.accept w rest)
      | .error _ => .reserved (s.accept w rest)

/-- The device finishes the payload in its inbox before the block is served (log entry 11). -/
def fetch (s : State) : Fetched :=
  match s.dev.inbox with
  | [] => fetchRequest s
  | _ :: _ => fetchCommand s

/-- A reserved request completes at once with `ERR_ILLEGAL`, "changes no other state and transmits nothing" (R95, R235). -/
def reservedRequest (s : State) : State := s.raise .illegal

/-- `s` with an instruction placed where the next step fetches it: a request word at the head of the request port,
`BUSY` 0 and the device's inbox empty; or a command's bytes alone in the device's inbox. -/
def placeInstruction (s : State) (nbits w : Nat) : State :=
  match tablePort nbits w with
  | .request =>
    { s with busy := false, requests := BitVec.ofNat 128 w :: s.requests, dev := { s.dev with inbox := [] } }
  | .device => { s with dev := { s.dev with inbox := tableBytes nbits w } }

end Sys2Proof.Machine
end

