-- ==== Sys2Proof/Machine/Step.lean ====
section
/-! DEFINITION. One step of the machine (R13): a whole request, or one command the device has still to take. -/

namespace Sys2Proof.Machine

/-- One step. An idle machine stays as it is: "it then waits, idle, for the first request" (R260). -/
def step (s : State) : Host.Outcome State Fault Refusal :=
  match fetch s with
  | .idle => .next s
  | .run i t => exec i t
  | .reserved t => .next (reservedRequest t)
  | .unknown b => .refused (.unknownCommand b)
  | .cutShort b => .fault (.commandCutShort b)

/-- `s` with the instruction whose bits are `w`, numbered as the opcode table numbers them, where `step` fetches next. -/
def State.withFetchWord (s : State) (nbits w : Nat) : State := placeInstruction s nbits w

end Sys2Proof.Machine
end

