-- ==== Sys2Proof/Machine/Assembler.lean ====
section
/-! DEFINITION. The text form of requests (30_encoding.md R98) and the assembler's own lines (R99): `DRAWCHAR`,
`DRAWSTRING` and `.bytes`. The block knows nothing of it; a program in text becomes requests and source bytes here. -/

namespace Sys2Proof.Machine

/-! ### Tokens -/

/-- A token of a line. -/
inductive Token where
  | word (cs : List Char)
  | minus
  | comma
  | colon
  | pointer
  | char (c : Byte)
  | text (bs : List Byte)
  deriving DecidableEq, Repr

/-- What the scanner is inside of, with the characters of it read so far, last first. -/
inductive Scanning where
  | blank
  | word (rev : List Char)
  | text (rev : List Byte)
  | charOpen
  | charRead (c : Byte)
  | comment
  | bad
  deriving DecidableEq, Repr

/-- A character that may stand in a mnemonic, a number, a name or a directive. -/
def isWordChar (c : Char) : Bool := c.isAlphanum || c == '_' || c == '.'

/-- The byte of a character of code 0 to 255: its code. R99 says nothing of a character beyond ASCII: DESIGN CHOICE, log
entry 17. -/
def charByte (c : Char) : Byte := BitVec.ofNat 8 c.toNat

/-- The double quote and the single quote. -/
def doubleQuote : Char := Char.ofNat 34
def singleQuote : Char := Char.ofNat 39

/-- One character between tokens; the tokens read so far stand last first. -/
def scanBlank (toks : List Token) (c : Char) : List Token × Scanning :=
  if c = ' ' ∨ c = '\t' then (toks, .blank)
  else if c = ';' then (toks, .comment)
  else if c = ',' then (.comma :: toks, .blank)
  else if c = ':' then (.colon :: toks, .blank)
  else if c = '-' then (.minus :: toks, .blank)
  else if c = '@' then (.pointer :: toks, .blank)
  else if c = doubleQuote then (toks, .text [])
  else if c = singleQuote then (toks, .charOpen)
  else if isWordChar c then (toks, .word [c])
  else (toks, .bad)

/-- One character of a line. "A `;` starts a comment" (R98), but not inside a text or a character. A character of a text,
or between single quotes, whose code is above 255 has no byte and the line does not assemble: DESIGN CHOICE, log entry
17. -/
def scanChar : List Token × Scanning → Char → List Token × Scanning
  | (toks, .blank), c => scanBlank toks c
  | (toks, .word rev), c =>
    if isWordChar c then (toks, .word (c :: rev)) else scanBlank (.word rev.reverse :: toks) c
  | (toks, .text rev), c =>
    if c = doubleQuote then (.text rev.reverse :: toks, .blank)
    else if c.toNat < 256 then (toks, .text (charByte c :: rev)) else (toks, .bad)
  | (toks, .charOpen), c => if c.toNat < 256 then (toks, .charRead (charByte c)) else (toks, .bad)
  | (toks, .charRead b), c => if c = singleQuote then (.char b :: toks, .blank) else (toks, .bad)
  | (toks, .comment), _ => (toks, .comment)
  | (toks, .bad), _ => (toks, .bad)

/-- The tokens of a line; none when a text or a character is not closed or a character has no place. -/
def tokens (line : List Char) : Option (List Token) :=
  match line.foldl scanChar ([], .blank) with
  | (toks, .blank) => some toks.reverse
  | (toks, .comment) => some toks.reverse
  | (toks, .word rev) => some (.word rev.reverse :: toks).reverse
  | (_, .text _) => none
  | (_, .charOpen) => none
  | (_, .charRead _) => none
  | (_, .bad) => none

/-- The operands of a line: the runs of tokens between commas. -/
def operands : List Token → List (List Token)
  | [] => [[]]
  | .comma :: ts => [] :: operands ts
  | t :: ts =>
    match operands ts with
    | o :: os => (t :: o) :: os
    | [] => [[t]]

/-! ### Numbers -/

/-- The value of a hexadecimal digit. -/
def hexDigit (c : Char) : Option Nat :=
  if c.isDigit then some (c.toNat - '0'.toNat)
  else if 'a' ≤ c ∧ c ≤ 'f' then some (c.toNat - 'a'.toNat + 10)
  else if 'A' ≤ c ∧ c ≤ 'F' then some (c.toNat - 'A'.toNat + 10)
  else none

/-- Digits in a base, first digit highest; none if one of them is no digit of the base. -/
def digits (base : Nat) (cs : List Char) : Option Nat :=
  cs.foldl (fun n c =>
    match n, hexDigit c with
    | some n, some d => if d < base then some (n * base + d) else none
    | _, _ => none) (some 0)

/-- A hexadecimal number: `0x` and at least one digit (R98). -/
def hexNumber : List Char → Option Nat
  | '0' :: 'x' :: c :: cs => digits 16 (c :: cs)
  | _ => none

/-- A number: decimal, or hexadecimal with `0x` (R98). -/
def number (cs : List Char) : Option Nat :=
  match cs with
  | [] => none
  | _ :: _ => (hexNumber cs).or (digits 10 cs)

/-- A value as a two's complement 16-bit field, if it fits (R91). -/
def field16 (z : Int) : Option (BitVec 16) := if -32768 ≤ z ∧ z < 32768 then some (BitVec.ofInt 16 z) else none

/-- A value as an unsigned field of `n` bits, if it fits. -/
def fieldU (n v : Nat) : Option (BitVec n) := if v < 2 ^ n then some (BitVec.ofNat n v) else none

/-! ### Operands -/

/-- What the assembler has placed: names of source bytes, the bytes, and the next free source address. -/
structure Assembly where
  names : List (List Char × Nat)
  src   : Memory
  free  : Nat
  deriving DecidableEq, Repr

/-- A coordinate operand: `x`, `y`, or SETPOS's `page`. -/
def coordinate : List Token → Option (BitVec 16)
  | [.word w] => (number w).bind fun n => field16 (n : Int)
  | [.minus, .word w] => (number w).bind fun n => field16 (-(n : Int))
  | _ => none

/-- An unsigned operand of `n` bits: a width, a length, a count, a page, a colour. -/
def quantity (n : Nat) : List Token → Option (BitVec n)
  | [.word w] => (number w).bind fun v => fieldU n v
  | _ => none

/-- `color`: one bit (41_framebuffer_ops.md R153). -/
def colour (ts : List Token) : Option Bool := (quantity 1 ts).map fun b => b.getLsbD 0

/-- A character operand: a number, or the character itself between single quotes. -/
def character : List Token → Option (BitVec 8)
  | [.char c] => some c
  | ts => quantity 8 ts

/-- A pointer operand: `@0x...`, else `@name` (R98). A name that itself reads as `0x` and hexadecimal digits is taken as
the address: DESIGN CHOICE, log entry 17. -/
def pointerTo (a : Assembly) : List Token → Option (BitVec 32)
  | [.pointer, .word w] => ((hexNumber w).or (a.names.lookup w)).bind fun n => fieldU 32 n
  | _ => none

/-- The font of a pseudo-request's first operand (R99). -/
def fontOf : List Token → Option Font
  | [.word w] =>
    if w = "8x8".toList then some .f8 else if w = "6x8".toList then some .f6
    else if w = "5x8".toList then some .f5 else none
  | _ => none

/-- DRAWCHAR8, DRAWCHAR6 or DRAWCHAR5 (R99's `DRAWCHAR font`). -/
def charInstr : Font → BitVec 8 → BitVec 16 → BitVec 16 → Instr
  | .f8, ch, x, y => .drawchar8 ch x y
  | .f6, ch, x, y => .drawchar6 ch x y
  | .f5, ch, x, y => .drawchar5 ch x y

/-- DRAWSTR8, DRAWSTR6 or DRAWSTR5 (R99's `DRAWSTRING font`). -/
def strInstr : Font → BitVec 16 → BitVec 16 → BitVec 16 → BitVec 32 → Instr
  | .f8, x, y, w, ptr => .drawstr8 x y w ptr
  | .f6, x, y, w, ptr => .drawstr6 x y w ptr
  | .f5, x, y, w, ptr => .drawstr5 x y w ptr

/-- `DRAWCHAR8 x, y, c` and the like. -/
def charLine (font : Font) : List (List Token) → Option Instr
  | [x, y, c] => do return charInstr font (← character c) (← coordinate x) (← coordinate y)
  | _ => none

/-- `DRAWSTR8 x, y, @text, n` and the like. -/
def strLine (a : Assembly) (font : Font) : List (List Token) → Option Instr
  | [x, y, p, n] => do
    return strInstr font (← coordinate x) (← coordinate y) (← quantity 16 n) (← pointerTo a p)
  | _ => none

/-- `DRAWHLINE x, y, length, color` and DRAWVLINE. -/
def lineLine (f : Bool → BitVec 16 → BitVec 16 → BitVec 16 → Instr) : List (List Token) → Option Instr
  | [x, y, w, c] => do return f (← colour c) (← coordinate x) (← coordinate y) (← quantity 16 w)
  | _ => none

/-! ### Lines -/

/-- A request that takes no operand: nothing may stand after the mnemonic. -/
def bare (i : Instr) : List Token → Option Instr
  | [] => some i
  | _ :: _ => none

/-- The request a line of R98 names. -/
def requestLine (a : Assembly) (m : List Char) (rest : List Token) : Option Instr :=
  let ops := operands rest
  if m = "INIT".toList then bare .init rest
  else if m = "FLUSH".toList then bare .flush rest
  else if m = "CLRBUF".toList then bare .clrbuf rest
  else if m = "CLEAR".toList then bare .clear rest
  else if m = "SETPOS".toList then
    match ops with
    | [x, p] => do return .setpos (← coordinate x) (← coordinate p)
    | _ => none
  else if m = "FLUSHPAGE".toList then
    match ops with
    | [p] => do return .flushpage (← quantity 8 p)
    | _ => none
  else if m = "SETPIXEL".toList then
    match ops with
    | [x, y, c] => do return .setpixel (← colour c) (← coordinate x) (← coordinate y)
    | _ => none
  else if m = "DRAWBITMAP".toList then
    match ops with
    | [x, y, w, h, p] => do
      return .drawbitmap (← coordinate x) (← coordinate y) (← quantity 16 w) (← quantity 16 h) (← pointerTo a p)
    | _ => none
  else if m = "DRAWHLINE".toList then lineLine .drawhline ops
  else if m = "DRAWVLINE".toList then lineLine .drawvline ops
  else if m = "DRAWRECT".toList then
    match ops with
    | [x, y, w, h, c] => do
      return .drawrect (← colour c) (← coordinate x) (← coordinate y) (← quantity 16 w) (← quantity 16 h)
    | _ => none
  else if m = "DRAWCHAR8".toList then charLine .f8 ops
  else if m = "DRAWCHAR6".toList then charLine .f6 ops
  else if m = "DRAWCHAR5".toList then charLine .f5 ops
  else if m = "DRAWSTR8".toList then strLine a .f8 ops
  else if m = "DRAWSTR6".toList then strLine a .f6 ops
  else if m = "DRAWSTR5".toList then strLine a .f5 ops
  else none

/-- Places bytes in `SRC` from the next free address on. -/
def Assembly.place (bs : List Byte) (a : Assembly) : Assembly :=
  { a with src := forUp bs.length (fun k m => m.write (srcAddr (BitVec.ofNat 32 a.free) k) (bs.getD k 0)) a.src
           free := a.free + bs.length }

/-- `DRAWSTRING font, x, y, "text"` (R99): the text is placed, and drawn by its address and its count. -/
def drawstringLine (a : Assembly) : List (List Token) → Option (Assembly × Instr)
  | [f, x, y, [.text bs]] => do
    return (a.place bs, strInstr (← fontOf f) (← coordinate x) (← coordinate y) (← fieldU 16 bs.length)
      (← fieldU 32 a.free))
  | _ => none

/-- `DRAWCHAR font, x, y, c` (R99). -/
def drawcharLine : List (List Token) → Option Instr
  | f :: ops => (fontOf f).bind fun font => charLine font ops
  | [] => none

/-- `.bytes name: b0, b1, ...` (R99). Of two lines that give one name, the later holds for the lines after it: DESIGN
CHOICE, log entry 17. So is that a byte may be written as a quoted character, which R98 says of character operands. -/
def bytesLine (a : Assembly) : List Token → Option Assembly
  | .word name :: .colon :: rest =>
    ((operands rest).mapM character).map fun bs => { a.place bs with names := (name, a.free) :: a.names }
  | _ => none

/-- One line: what is placed, and the request if the line names one. A line of nothing but a comment gives none. -/
def assembleLine (a : Assembly) (line : List Char) : Option (Assembly × Option Instr) :=
  match tokens line with
  | some [] => some (a, none)
  | some (.word m :: rest) =>
    if m = ".bytes".toList then (bytesLine a rest).map fun a => (a, none)
    else if m = "DRAWSTRING".toList then (drawstringLine a (operands rest)).map fun r => (r.1, some r.2)
    else if m = "DRAWCHAR".toList then (drawcharLine (operands rest)).map fun i => (a, some i)
    else (requestLine a m rest).map fun i => (a, some i)
  | some (_ :: _) => none
  | none => none

/-- A program in text, line by line: the source bytes it places and its requests in order. R99 does not say whether a
pointer may name bytes that a later line places; here a line knows the names of earlier lines only, so such a program does
not assemble: DESIGN CHOICE, log entry 17. -/
def assemble (a : Assembly) : List (List Char) → Option (Assembly × List Instr)
  | [] => some (a, [])
  | line :: lines => do
    let (a, i) ← assembleLine a line
    let (a, is) ← assemble a lines
    return (a, i.toList ++ is)

/-- `s` with a program in text at its request port, and the bytes it places in `SRC` (from `free` on): how the host
presents one (R32, R98, R99). A text that does not assemble changes nothing. -/
def loadText (free : Nat) (lines : List (List Char)) (s : State) : State :=
  match assemble { names := [], src := s.src, free := free } lines with
  | some (a, is) => { s with src := a.src, requests := s.requests ++ is.map encodeRequest }
  | none => s

end Sys2Proof.Machine
end

