-- ==== Sys2Proof/Safety.lean ====
section
/-! DEFINITION. The terms claims are stated in: the invariant every step keeps, the kinds of message the block may emit
(R100), and what the display shows (R83, R85). -/

namespace Sys2Proof.Machine

/-! ### Memories -/

/-- Every cell of a device memory lies on one of 8 pages and one of the device's columns (R79). -/
def devCellsOk (chip : Chip) (ram : Memory) : Bool :=
  ram.all fun c => decide (c.1 / 256 < 8) && decide (c.1 % 256 < devCols chip)

/-! ### The invariant -/

/-- The device's pointer and range registers hold a byte each (R206, R207, R217, R218). -/
structure Dev.Inv (chip : Chip) (d : Dev) : Prop where
  ram_wf : d.ram.wf = true
  ram_inside : devCellsOk chip d.ram = true
  pg_byte : d.pg < 256
  col_byte : d.col < 256
  colStart_byte : d.colStart < 256
  colEnd_byte : d.colEnd < 256
  pgStart_byte : d.pgStart < 256
  pgEnd_byte : d.pgEnd < 256

/-- What holds at every request boundary: memories are canonical and no byte lies outside its space (R51, R52, R53,
R65); `BUSY` is 0 and `SEQ` at its start (R25, R27); the glyph buffers hold 8 bytes (R29); every message is well formed
(R100, R107); a given `INIT_SEQ` meets its constraints (R122 to R127); `STATUS` is the last response (R24, R32); the
device's registers keep their widths. -/
structure State.Inv (s : State) : Prop where
  fb_wf : s.fb.wf = true
  fb_inside : s.fb.below (fbSize s.h64) = true
  src_wf : s.src.wf = true
  src_inside : s.src.below (2 ^ 32) = true
  g8_wf : s.g8.wf = true
  g8_inside : s.g8.below (96 * 8) = true
  g6_wf : s.g6.wf = true
  g6_inside : s.g6.below (96 * 6) = true
  g5_wf : s.g5.wf = true
  g5_inside : s.g5.below (96 * 5) = true
  not_busy : s.busy = false
  seq_start : s.seq = Seq.start
  gb_length : s.gb.length = 8
  tb_length : s.tb.length = 8
  trace_wf : s.trace.all Event.wellFormed = true
  init_legal : ∀ bs, s.initSeq = some bs → initSeqOk s.chip s.h64 bs = true
  status_last : ∀ st, s.responses.getLast? = some st → st = s.status
  dev_inv : s.dev.Inv s.chip

/-! ### Messages (R100) -/

/-- The event carries the init message. -/
def isInitMessage (s : State) (e : Event) : Prop := e.mode = .cmd ∧ e.payload = initPayload s

/-- The event carries a position message for a page below 8 and a device column below 256 (R104). -/
def isPositionMessage (e : Event) : Prop :=
  e.mode = .cmd ∧ ∃ page dc, page < 8 ∧ dc < 256 ∧ e.payload = posPayload page dc

/-- The event carries a page data message: the 128 bytes of a page of the given framebuffer (R105). -/
def isPageDataMessage (h64 : Bool) (fb : Memory) (e : Event) : Prop :=
  e.mode = .data ∧ ∃ p, p < pages h64 ∧ e.payload = pageData fb p

/-! ### The display -/

/-- Every visible byte of the device's memory is the framebuffer's byte (R83, R85). -/
def showsFramebuffer (s : State) : Prop :=
  ∀ p c, p < pages s.h64 → c < Config.width → devByte s.dev.ram p (c + colOff s.chip) = fbByte s.fb p c

/-- What FLUSH relies on in an SSD1306 (R85 (b), R266): horizontal mode, the pointer at page 0, column 0, and the full
ranges. -/
structure Dev.Ready (h64 : Bool) (d : Dev) : Prop where
  mode_horizontal : d.mode = .horizontal
  at_page_zero : d.pg = 0
  at_col_zero : d.col = 0
  cols_from : d.colStart = 0
  cols_to : d.colEnd = 127
  pages_from : d.pgStart = 0
  pages_to : d.pgEnd + 1 = pages h64

/-! ### Operations by what they do -/

/-- The drawing operations and CLRBUF: those that can end only with `OK` (R230). -/
def isDrawing : Instr → Bool
  | .clrbuf => true
  | .setpixel _ _ _ => true
  | .drawbitmap _ _ _ _ _ => true
  | .drawhline _ _ _ _ => true
  | .drawvline _ _ _ _ => true
  | .drawrect _ _ _ _ _ => true
  | .drawchar8 _ _ _ => true
  | .drawchar6 _ _ _ => true
  | .drawchar5 _ _ _ => true
  | .drawstr8 _ _ _ _ => true
  | .drawstr6 _ _ _ _ => true
  | .drawstr5 _ _ _ _ => true
  | _ => false

/-- The pixel (col, row) of a character's glyph, read straight from the stored table: font 8 holds rows, fonts 6 and 5
hold columns (R52). -/
def glyphPixel (s : State) (font : Font) (c : Byte) (col row : Nat) : Bool :=
  match font with
  | .f8 => (glyphRead s .f8 (glyphIndex c) row).getLsbD col
  | .f6 => (glyphRead s .f6 (glyphIndex c) col).getLsbD row
  | .f5 => (glyphRead s .f5 (glyphIndex c) col).getLsbD row

/-! ### What a flush sends (R140) -/

/-- `POS(page, dc)` by R104's own formula for its bytes. -/
def posBytes (page dc : Nat) : List Byte :=
  [BitVec.ofNat 8 (0xB0 + page), BitVec.ofNat 8 (dc % 16), BitVec.ofNat 8 (0x10 + dc / 16)]

/-- The messages of one page: on SSD1306 its data, on SH1106 a position message for device column 2 before it. -/
def pageMessages (chip : Chip) (fb : Memory) (p : Nat) : List (BusMode × List Byte) :=
  match chip with
  | .ssd1306 => [(.data, pageData fb p)]
  | .sh1106 => [(.cmd, posBytes p 2), (.data, pageData fb p)]

/-- All messages of a FLUSH no message of which fails, in order. -/
def flushMessages (chip : Chip) (h64 : Bool) (fb : Memory) : List (BusMode × List Byte) :=
  (List.range (pages h64)).flatMap (pageMessages chip fb)

/-- How many of the first `n` answers are `ok` before the first `fail`. -/
def leadingOk (answer : Nat → Answer) : Nat → Nat
  | 0 => 0
  | n + 1 => if leadingOk answer n = n ∧ answer n = .ok then n + 1 else leadingOk answer n

/-- The events of a list of messages sent in order up to and including the first failing one. -/
def sentEvents (answer : Nat → Answer) (ms : List (BusMode × List Byte)) : List Event :=
  (List.range (min (leadingOk answer ms.length + 1) ms.length)).map fun k =>
    { mode := (ms.getD k (.cmd, [])).1, payload := (ms.getD k (.cmd, [])).2, answer := answer k }

/-- The status of an operation that sends these messages in order: `OK` iff none fails. -/
def sentStatus (answer : Nat → Answer) (n : Nat) : Status :=
  if leadingOk answer n = n then .ok else .errTransport

end Sys2Proof.Machine
end

