-- ==== Sys2Proof/Certificates/Slice0/Obligations.lean ====
section
/-! DEFINITION. The statements for the provers. Each docstring names the rule it formalises. -/

open Sys2Proof Sys2Proof.Machine

/-! ### Encodings -/

/-- 30_encoding.md R90 to R93, R102, R103: bytes written out from the spec's encodings (95_test_vectors.md V1 to V8, T5,
T6, P4) decode to the instructions they stand for. -/
def Obligations.WordsOfTheSpecDecode : Prop :=
  decode .request [0x00, 0, 0, 0, 0, 0, 0, 0, 0, 0, 0, 0, 0, 0, 0, 0] = .ok (.init, []) ∧
  decode .request [0x86, 0, 5, 0, 0x0A, 0, 0, 0, 0, 0, 0, 0, 0, 0, 0, 0] = .ok (.setpixel true 5 10, []) ∧
  decode .request [0x86, 0, 0xFF, 0xFF, 0xFF, 0xFF, 0, 0, 0, 0, 0, 0, 0, 0, 0, 0] =
    .ok (.setpixel true 0xFFFF 0xFFFF, []) ∧
  decode .request [0x66, 0xAA, 5, 0, 0x0A, 0, 0xFF, 0xFF, 0xFF, 0xFF, 0xFF, 0xFF, 0xFF, 0xFF, 0xFF, 0xFF] =
    .ok (.setpixel false 5 10, []) ∧
  decode .request [0x02, 9, 0, 0, 0, 0, 0, 0, 0, 0, 0, 0, 0, 0, 0, 0] = .ok (.flushpage 9, []) ∧
  decode .request [0x07, 0, 0xFE, 0xFF, 0xFC, 0xFF, 4, 0, 0x0A, 0, 0, 0x30, 0, 0, 0, 0] =
    .ok (.drawbitmap 0xFFFE 0xFFFC 4 10 0x3000, []) ∧
  decode .request [0x8A, 0, 0, 0, 0, 0, 0x0A, 0, 5, 0, 0, 0, 0, 0, 0, 0] = .ok (.drawrect true 0 0 10 5, []) ∧
  decode .request [0x0E, 0, 0, 0, 0, 0, 2, 0, 0, 0, 0, 0x20, 0, 0, 0, 0] = .ok (.drawstr8 0 0 2 0x2000, []) ∧
  decode .request [0x1F, 0, 0, 0, 0, 0, 0, 0, 0, 0, 0, 0, 0, 0, 0, 0] = .error (.reservedOp 0x1F) ∧
  decode .device [0xB7, 0x01, 0x18] = .ok (.setpage 7, [0x01, 0x18]) ∧
  decode .device [0x01, 0x18] = .ok (.setcollo 1, [0x18]) ∧
  decode .device [0x18] = .ok (.setcolhi 8, []) ∧
  decode .device [0x21, 0x00, 0x7F] = .ok (.colrange 0x00 0x7F, []) ∧
  decode .device [0xDA, 0x12] = .ok (.compins 0x12, []) ∧
  decode .device [0xC8] = .ok (.comscan true, [])

/-- 30_encoding.md R90 to R94, R103 and 44_device_commands.md R200: encoding an instruction and decoding the bytes gives
the instruction back, whatever bytes follow. -/
def Obligations.DecodeOfEncodeGivesBackEveryInstruction : Prop :=
  ∀ (i : Instr) (rest : List Byte), decode i.port (encode i ++ rest) = .ok (i, rest)

/-- 44_device_commands.md R200: a command read off a payload is a command, and the bytes it took are exactly its
encoding; no other byte was taken for part of it. -/
def Obligations.CommandBytesHaveOneReading : Prop :=
  ∀ (bs : List Byte) (i : Instr) (rest : List Byte), decodeCommand bs = .ok (i, rest) →
    i.port = .device ∧ bs = encode i ++ rest

/-- 30_encoding.md R90 to R95: every request word is one of the 17 operations or reserved, and it is the operation whose
code (R92) its `OP` holds. Which bits of the word each operation takes (R90, R93) is said for every word, so every other
field influences nothing (R95). -/
def Obligations.RequestDecodingIsTotal : Prop :=
  ∀ w : Request,
    ((reqOp w).toNat ≤ 0x10 →
      ∃ i, decodeRequest w = .ok i ∧ i.port = .request ∧ reqOp (encodeRequest i) = reqOp w) ∧
    (0x11 ≤ (reqOp w).toNat → decodeRequest w = .error (.reservedOp (reqOp w))) ∧
    reqOp w = w.extractLsb' 0 5 ∧
    ∀ (color : Bool) (ch : BitVec 8) (x y wd h : BitVec 16) (ptr : BitVec 32),
      color = w.getLsbD 7 → ch = w.extractLsb' 8 8 → x = w.extractLsb' 16 16 → y = w.extractLsb' 32 16 →
      wd = w.extractLsb' 48 16 → h = w.extractLsb' 64 16 → ptr = w.extractLsb' 80 32 →
      (reqOp w = 0x00 → decodeRequest w = .ok .init) ∧
      (reqOp w = 0x01 → decodeRequest w = .ok (.setpos x y)) ∧
      (reqOp w = 0x02 → decodeRequest w = .ok (.flushpage ch)) ∧
      (reqOp w = 0x03 → decodeRequest w = .ok .flush) ∧
      (reqOp w = 0x04 → decodeRequest w = .ok .clrbuf) ∧
      (reqOp w = 0x05 → decodeRequest w = .ok .clear) ∧
      (reqOp w = 0x06 → decodeRequest w = .ok (.setpixel color x y)) ∧
      (reqOp w = 0x07 → decodeRequest w = .ok (.drawbitmap x y wd h ptr)) ∧
      (reqOp w = 0x08 → decodeRequest w = .ok (.drawhline color x y wd)) ∧
      (reqOp w = 0x09 → decodeRequest w = .ok (.drawvline color x y wd)) ∧
      (reqOp w = 0x0A → decodeRequest w = .ok (.drawrect color x y wd h)) ∧
      (reqOp w = 0x0B → decodeRequest w = .ok (.drawchar8 ch x y)) ∧
      (reqOp w = 0x0C → decodeRequest w = .ok (.drawchar6 ch x y)) ∧
      (reqOp w = 0x0D → decodeRequest w = .ok (.drawchar5 ch x y)) ∧
      (reqOp w = 0x0E → decodeRequest w = .ok (.drawstr8 x y wd ptr)) ∧
      (reqOp w = 0x0F → decodeRequest w = .ok (.drawstr6 x y wd ptr)) ∧
      (reqOp w = 0x10 → decodeRequest w = .ok (.drawstr5 x y wd ptr))

/-- 30_encoding.md R95: the reserved bits `req[6:5]` and `req[127:112]` influence nothing. -/
def Obligations.ReservedRequestBitsAreIgnored : Prop :=
  ∀ w : Request, decodeRequest (w &&& 0x0000FFFFFFFFFFFFFFFFFFFFFFFFFF9F#128) = decodeRequest w

/-- 30_encoding.md R91: `X` and `Y` are two's complement; `W` and `H` are unsigned. -/
def Obligations.CoordinatesAreTwosComplement : Prop :=
  ∀ x : BitVec 16,
    signed x = (if x.getLsbD 15 then (x.toNat : Int) - 65536 else (x.toNat : Int)) ∧ unsigned x = x.toNat

/-! ### The step -/

/-- 10_state.md R32, R26: an idle block with no command waiting at the device accepts the first request, loads its
latches and carries out the instruction the word decodes to. -/
def Obligations.StepRunsTheAcceptedRequest : Prop :=
  ∀ (s : State) (w : Request) (rest : List Request) (i : Instr),
    s.dev.inbox = [] → s.busy = false → s.requests = w :: rest → decodeRequest w = .ok i →
    step s = exec i { s with
      busy := true, seq := Seq.start, requests := rest,
      latch := { op := reqOp w, color := reqColor w, ch := reqCh w, x := reqX w, y := reqY w, w := reqW w,
                 h := reqH w, ptr := reqPtr w } }

/-- 20_memory.md R80: with command bytes in the device's inbox, a step carries out the command they start with, its
bytes taken out. That such a step comes before the next request is the model's choice, log entry 11. -/
def Obligations.StepRunsTheNextDeviceCommand : Prop :=
  ∀ (s : State) (i : Instr) (rest : List Byte),
    decodeCommand s.dev.inbox = .ok (i, rest) → step s = exec i { s with dev := { s.dev with inbox := rest } }

/-- 60_exceptions.md R235, 30_encoding.md R95 (the spec's decision D23, log entry 12): a request whose `OP` is 0x11..0x1F
changes nothing but `STATUS`, sends nothing, and is answered `ERR_ILLEGAL`. That its word is taken off the port and into
the latches is R32's acceptance, which R95 gives it too, in the form of log entry 13. -/
def Obligations.ReservedRequestIsAnsweredIllegal : Prop :=
  ∀ (s : State) (w : Request) (rest : List Request),
    s.dev.inbox = [] → s.busy = false → s.requests = w :: rest → 0x11 ≤ (reqOp w).toNat →
    step s = .next { s with
      latch := State.latchesOf w, requests := rest, status := .errIllegal, busy := false, seq := Seq.start,
      responses := s.responses ++ [.errIllegal] }

/-- 10_state.md R32, 70_reset_and_hazards.md R260: while `BUSY` is 1 no request is accepted, and with none presented the
block waits. That a step then leaves the whole state as it is, with `BUSY` 1 too, is the model's choice, log entry 11. -/
def Obligations.NothingHappensWhenNothingIsAccepted : Prop :=
  ∀ s : State, s.dev.inbox = [] → s.busy = true ∨ s.requests = [] → step s = .next s

/-- 20_memory.md R57, 60_exceptions.md R236: nothing the block does stops the machine; only bytes in the device's inbox that
are no command can, and the block sends none: the inbox stays empty (log entry 11). -/
def Obligations.TheBlockNeverStops : Prop :=
  ∀ s : State, s.dev.inbox = [] → ∃ t, step s = .next t ∧ t.dev.inbox = []

/-- 10_state.md R24, R25, R27, R32: every request completes; it gives exactly one response, `STATUS` holds the same
value, `BUSY` is 0 and `SEQ` at its start. -/
def Obligations.EveryRequestGivesOneResponse : Prop :=
  ∀ (i : Instr) (s : State), i.port = .request →
    ∃ t, exec i s = .next t ∧ t.responses = s.responses ++ [t.status] ∧ t.busy = false ∧ t.seq = Seq.start

/-! ### The framebuffer -/

/-- 20_memory.md R56 (the spec's own inference from R55): the bit-level form of `PAG` is `PAG` for two's complement
inputs of N ≥ 8 bits; the framebuffer address is `y[5:3]` above `x[6:0]`, the bit mask `1 << y[2:0]`. -/
def Obligations.AddressGeneratorBitForm : Prop :=
  ∀ (h64 : Bool) (n : Nat) (x y : BitVec n), 8 ≤ n →
    pagBits h64 x y = pag h64 x.toInt y.toInt ∧
    ∀ p, pag h64 x.toInt y.toInt = some p →
      fbAddr p.page p.col = (y.extractLsb' 3 3 ++ x.extractLsb' 0 7).toNat ∧
      (1#8 <<< p.bit) = (1#8 <<< (y.extractLsb' 0 3).toNat) ∧
      (h64 = false → p.page = (y.extractLsb' 3 2).toNat)

/-- 41_framebuffer_ops.md R152: code 0x06 is SETPIXEL; it gives the pixel (x, y) the colour and leaves every other
display pixel, every byte it does not store to, and everything but `STATUS` (with its response) as it was; off the
display it stores nothing. -/
def Obligations.SetpixelEffect : Prop :=
  ∀ (s : State) (color : Bool) (x y : BitVec 16), ∃ t,
    exec (.setpixel color x y) s = .next t ∧
    (∀ px py : Nat, px < 128 → py < height s.h64 →
      fbPixel t.fb px py = if signed x = px ∧ signed y = py then color else fbPixel s.fb px py) ∧
    (∀ a, pixelAddr s.h64 (signed x) (signed y) ≠ some a → fbRead t.fb a = fbRead s.fb a) ∧
    (¬ (0 ≤ signed x ∧ signed x < 128 ∧ 0 ≤ signed y ∧ signed y < height s.h64) → t.fb = s.fb) ∧
    t = { s with fb := t.fb, status := .ok, busy := false, seq := Seq.start, responses := s.responses ++ [.ok] } ∧
    ∀ w, reqOp w = 0x06 → decodeRequest w = .ok (.setpixel (reqColor w) (reqX w) (reqY w))

/-- 41_framebuffer_ops.md R154 (the spec's own inference from R152): calls on different pixels commute, of two on one
pixel the later wins, and a call off the display is the identity. -/
def Obligations.SetPixelCallsCommute : Prop :=
  ∀ (h64 : Bool) (fb : Memory) (x y x' y' : Int) (c c' : Bool),
    (¬ (x = x' ∧ y = y') → ∀ a,
      fbRead (setPixel h64 x' y' c' (setPixel h64 x y c fb)) a =
        fbRead (setPixel h64 x y c (setPixel h64 x' y' c' fb)) a) ∧
    (∀ a, fbRead (setPixel h64 x y c' (setPixel h64 x y c fb)) a = fbRead (setPixel h64 x y c' fb) a) ∧
    (¬ (0 ≤ x ∧ x < 128 ∧ 0 ≤ y ∧ y < height h64) → setPixel h64 x y c fb = fb)

/-- 41_framebuffer_ops.md R150: code 0x04 is CLRBUF; it makes every framebuffer byte 0, whatever it was, and changes
nothing else but `STATUS` (with its response). -/
def Obligations.ClrbufZeroesEveryByte : Prop :=
  ∀ s : State, ∃ t, exec .clrbuf s = .next t ∧
    (∀ p c, p < pages s.h64 → c < 128 → fbByte t.fb p c = 0) ∧
    t = { s with fb := t.fb, status := .ok, busy := false, seq := Seq.start, responses := s.responses ++ [.ok] } ∧
    ∀ w, reqOp w = 0x04 → decodeRequest w = .ok .clrbuf

/-- 41_framebuffer_ops.md R151, its sentence marked as the spec's own inference from R150 and R138: CLEAR equals the request
CLRBUF followed by the request FLUSH, except that it gives one response and one status. -/
def Obligations.ClearIsClrbufThenFlush : Prop :=
  ∀ s : State, ∃ u t, exec .clrbuf s = .next u ∧ exec .flush u = .next t ∧
    exec .clear s = .next { t with responses := s.responses ++ [t.status] }

/-! ### The rasteriser -/

/-- 42_shape_rasterizer.md R164, R165 (the latter the spec's own inference): DRAWHLINE. The pixels whose bit becomes
`COLOR` are exactly those of the clipped line; the effect is that of the loop with no pre-check and no clipping. Only
bytes of those pixels change. -/
def Obligations.HorizontalLineEffect : Prop :=
  ∀ (s : State) (color : Bool) (x y w : BitVec 16), ∃ t,
    exec (.drawhline color x y w) s = .next t ∧
    (∀ px py : Nat, px < 128 → py < height s.h64 →
      fbPixel t.fb px py =
        if signed y = py ∧ max (signed x) 0 ≤ px ∧ (px : Int) < min (signed x + unsigned w) 128 then color
        else fbPixel s.fb px py) ∧
    (∀ a, fbRead t.fb a =
      fbRead (forUp (unsigned w) (fun i fb => setPixel s.h64 (signed x + i) (signed y) color fb) s.fb) a) ∧
    (∀ a, (∀ i : Nat, i < unsigned w → pixelAddr s.h64 (signed x + i) (signed y) ≠ some a) → fbRead t.fb a = fbRead s.fb a) ∧
    t = { s with fb := t.fb, status := .ok, busy := false, seq := Seq.start, responses := s.responses ++ [.ok] }

/-- 42_shape_rasterizer.md R168, R169 (the latter the spec's own inference): DRAWVLINE, the same of a vertical line. -/
def Obligations.VerticalLineEffect : Prop :=
  ∀ (s : State) (color : Bool) (x y w : BitVec 16), ∃ t,
    exec (.drawvline color x y w) s = .next t ∧
    (∀ px py : Nat, px < 128 → py < height s.h64 →
      fbPixel t.fb px py =
        if signed x = px ∧ max (signed y) 0 ≤ py ∧ (py : Int) < min (signed y + unsigned w) (height s.h64) then color
        else fbPixel s.fb px py) ∧
    (∀ a, (∀ i : Nat, i < unsigned w → pixelAddr s.h64 (signed x) (signed y + i) ≠ some a) → fbRead t.fb a = fbRead s.fb a) ∧
    t = { s with fb := t.fb, status := .ok, busy := false, seq := Seq.start, responses := s.responses ++ [.ok] }

/-- 42_shape_rasterizer.md R172, R173 (the latter the spec's own inference): DRAWRECT. Exactly the on-display pixels
of the outline become `COLOR`; with a side of zero length nothing does. -/
def Obligations.RectangleEffect : Prop :=
  ∀ (s : State) (color : Bool) (x y w h : BitVec 16), ∃ t,
    exec (.drawrect color x y w h) s = .next t ∧
    (∀ px py : Nat, px < 128 → py < height s.h64 →
      fbPixel t.fb px py =
        if (signed x ≤ px ∧ (px : Int) ≤ signed x + unsigned w - 1 ∧ signed y ≤ py ∧
            (py : Int) ≤ signed y + unsigned h - 1) ∧
           ((px : Int) = signed x ∨ (px : Int) = signed x + unsigned w - 1 ∨ (py : Int) = signed y ∨
            (py : Int) = signed y + unsigned h - 1) then color
        else fbPixel s.fb px py) ∧
    (∀ a,
      (∀ i : Nat, i < unsigned w → pixelAddr s.h64 (signed x + i) (signed y) ≠ some a ∧
        pixelAddr s.h64 (signed x + i) (signed y + unsigned h - 1) ≠ some a) →
      (∀ i : Nat, i < unsigned h → pixelAddr s.h64 (signed x) (signed y + i) ≠ some a ∧
        pixelAddr s.h64 (signed x + unsigned w - 1) (signed y + i) ≠ some a) →
      fbRead t.fb a = fbRead s.fb a) ∧
    (unsigned w = 0 ∨ unsigned h = 0 → t.fb = s.fb) ∧
    t = { s with fb := t.fb, status := .ok, busy := false, seq := Seq.start, responses := s.responses ++ [.ok] }

/-- 42_shape_rasterizer.md R160, R163 (the latter the spec's own inference): DRAWBITMAP. Inside the bitmap's rectangle
each display pixel gets its bit of the source, 0 bits too; outside it is unchanged. -/
def Obligations.BitmapEffect : Prop :=
  ∀ (s : State) (x y w h : BitVec 16) (ptr : BitVec 32), ∃ t,
    exec (.drawbitmap x y w h ptr) s = .next t ∧
    (∀ px py : Nat, px < 128 → py < height s.h64 →
      fbPixel t.fb px py =
        if signed x ≤ px ∧ (px : Int) < signed x + unsigned w ∧ signed y ≤ py ∧ (py : Int) < signed y + unsigned h then
          (srcRead s.src ((ptr.toNat +
            (((py : Int) - signed y).toNat / 8 * unsigned w + ((px : Int) - signed x).toNat)) % 2 ^ 32)).getLsbD
              (((py : Int) - signed y).toNat % 8)
        else fbPixel s.fb px py) ∧
    (∀ a, (∀ col row : Nat, col < unsigned w → row < unsigned h →
        pixelAddr s.h64 (signed x + col) (signed y + row) ≠ some a) → fbRead t.fb a = fbRead s.fb a) ∧
    t = { s with fb := t.fb, status := .ok, busy := false, seq := Seq.start, responses := s.responses ++ [.ok] }

/-- 42_shape_rasterizer.md R161: the iteration order of DRAWBITMAP cannot be observed; column by column gives the same
framebuffer as row by row. -/
def Obligations.BitmapOrderIsUnobservable : Prop :=
  ∀ (h64 : Bool) (src : Memory) (ptr : BitVec 32) (x y : Int) (w h : Nat) (fb : Memory) (a : Nat),
    fbRead (drawBitmap h64 src ptr x y w h fb) a =
      fbRead (forUp w (fun col fb => forUp h (fun row fb =>
        setPixel h64 (x + col) (y + row) (bitmapBit src ptr w col row) fb) fb) fb) a

/-! ### Glyphs -/

/-- 43_glyph_renderer.md R180: output byte `cx` has bit `ry` equal to bit `cx` of input row `ry`, and 0 from `height`
on. -/
def Obligations.TransposerBits : Prop :=
  ∀ (rows : List Byte) (width height : Nat), rows.length = 8 → 1 ≤ width → width ≤ 8 → 1 ≤ height → height ≤ 8 →
    (transpose rows width height).length = width ∧
    ∀ cx ry, cx < width → ry < 8 →
      ((transpose rows width height).getD cx 0).getLsbD ry = (decide (ry < height) && (rows.getD ry 0).getLsbD cx)

/-- 43_glyph_renderer.md R181 (the spec's own inference from R180): the 8×8 transposer is its own inverse; off 8×8,
transposing twice is not the identity. -/
def Obligations.TransposerIsSelfInverse : Prop :=
  (∀ rows : List Byte, rows.length = 8 → transpose (transpose rows 8 8) 8 8 = rows) ∧
  ∃ rows : List Byte, rows.length = 8 ∧ transpose (transpose rows 5 8) 8 5 ≠ rows

/-- 43_glyph_renderer.md R183: codes 0..31 and 128..255 give index 0, the others their code less 32; never above 95. -/
def Obligations.GlyphIndexClampsToSpace : Prop :=
  ∀ c : Byte, glyphIndex c = (if 32 ≤ c.toNat ∧ c.toNat ≤ 127 then c.toNat - 32 else 0) ∧ glyphIndex c ≤ 95

/-- 43_glyph_renderer.md R184 to R187: a character (DRAWCHAR8, DRAWCHAR6, DRAWCHAR5) gives every on-display pixel of its
cell the glyph's bit, clear bits too (the spec's decision D13, log entry 12), and changes no other pixel; `GB` takes the
stored bytes, and for font 8 `TB` takes the columns, the transpose of those rows. That both hold them after the response
is log entry 15. -/
def Obligations.CharacterEffect : Prop :=
  ∀ (s : State) (font : Font) (ch : BitVec 8) (x y : BitVec 16), ∃ t,
    exec (charInstr font ch x y) s = .next t ∧
    (∀ px py : Nat, px < 128 → py < height s.h64 →
      fbPixel t.fb px py =
        if signed x ≤ px ∧ (px : Int) < signed x + glyphCols font ∧ signed y ≤ py ∧ (py : Int) < signed y + 8 then
          glyphPixel s font ch ((px : Int) - signed x).toNat ((py : Int) - signed y).toNat
        else fbPixel s.fb px py) ∧
    (∀ a, (∀ col row : Nat, col < glyphCols font → row < 8 →
        pixelAddr s.h64 (signed x + col) (signed y + row) ≠ some a) → fbRead t.fb a = fbRead s.fb a) ∧
    (∀ k, k < glyphCols font → t.gb[k]? = some (glyphRead s font (glyphIndex ch) k)) ∧
    (font = .f8 → ∀ k, k < 8 → t.tb[k]? = (glyphColumns s .f8 ch)[k]?) ∧
    (font ≠ .f8 → t.tb = s.tb) ∧
    t = { s with fb := t.fb, gb := t.gb, tb := t.tb, status := .ok, busy := false, seq := Seq.start,
                 responses := s.responses ++ [.ok] }

/-- 43_glyph_renderer.md R191 to R194 (R194 the spec's own inference), with R190's advances: DRAWSTR8, DRAWSTR6, DRAWSTR5.
Character `k` of a string gives every on-display pixel of its cell, at `x` + advance × `k`, the bit of the glyph of text
byte `k`; every other pixel is unchanged. That the cursor, which R28 gives no meaning after the string, then stands after
the last character's advance is log entry 15. -/
def Obligations.StringEffect : Prop :=
  ∀ (s : State) (font : Font) (x y w : BitVec 16) (ptr : BitVec 32), ∃ t,
    exec (strInstr font x y w ptr) s = .next t ∧
    (∀ (px py k col row : Nat), px < 128 → py < height s.h64 → k < unsigned w → col < glyphCols font → row < 8 →
      (px : Int) = signed x + advance font * k + col → (py : Int) = signed y + row →
      fbPixel t.fb px py = glyphPixel s font (srcRead s.src ((ptr.toNat + k) % 2 ^ 32)) col row) ∧
    (∀ (px py : Nat), px < 128 → py < height s.h64 →
      (∀ k col row : Nat, k < unsigned w → col < glyphCols font → row < 8 →
        ¬ ((px : Int) = signed x + advance font * k + col ∧ (py : Int) = signed y + row)) →
      fbPixel t.fb px py = fbPixel s.fb px py) ∧
    (∀ a, (∀ k col row : Nat, k < unsigned w → col < glyphCols font → row < 8 →
        pixelAddr s.h64 (signed x + advance font * k + col) (signed y + row) ≠ some a) →
      fbRead t.fb a = fbRead s.fb a) ∧
    t.cur = { x := signed x + advance font * unsigned w, y := signed y } ∧
    (font ≠ .f8 → t.tb = s.tb) ∧
    t = { s with fb := t.fb, cur := t.cur, gb := t.gb, tb := t.tb, status := .ok, busy := false, seq := Seq.start,
                 responses := s.responses ++ [.ok] }

/-- 60_exceptions.md R230, R234, R236: the drawing operations and CLRBUF end with `OK` whatever `INITED` is; they send
no message, so the trace, the device and the transport's answers stay. -/
def Obligations.DrawingAlwaysSucceedsOffTheBus : Prop :=
  ∀ (i : Instr) (s : State), isDrawing i = true →
    ∃ t, exec i s = .next t ∧ t.status = .ok ∧ t.trace = s.trace ∧ t.dev = s.dev ∧ t.answers = s.answers ∧
      t.answersDrawn = s.answersDrawn ∧ t.inited = s.inited ∧ t.requests = s.requests ∧ t.latch = s.latch

/-! ### The display controller -/

/-- 40_display_controller.md R120, R121: code 0x00 is INIT; it sends exactly one message, the initialisation sequence in
command mode; `INITED` and `STATUS` follow its answer; `FB` and everything else of the block is unchanged. -/
def Obligations.InitOutcome : Prop :=
  ∀ s : State, ∃ t, exec .init s = .next t ∧
    t.trace = s.trace ++ [{ mode := .cmd, payload := initPayload s, answer := s.answerAt 0 }] ∧
    (s.answerAt 0 = .ok → t.inited = true ∧ t.status = .ok) ∧
    (s.answerAt 0 = .fail → t.inited = false ∧ t.status = .errTransport) ∧
    (∀ k, t.answerAt k = s.answerAt (k + 1)) ∧
    t = { s with inited := t.inited, status := t.status, trace := t.trace, dev := t.dev, answers := t.answers,
                 answersDrawn := t.answersDrawn, busy := false, seq := Seq.start,
                 responses := s.responses ++ [t.status] } ∧
    ∀ w, reqOp w = 0x00 → decodeRequest w = .ok .init

/-- 40_display_controller.md R130, R132, 30_encoding.md R104: SETPOS on the display sends one position message for device
column `X` + `COLOFF`, and its status follows the answer; answered `ok`, it moves the pointer of a device in page mode to
that page and column (44_device_commands.md R219, the spec's own inference, on the mirror of log entry 8). -/
def Obligations.SetposSendsThePosition : Prop :=
  ∀ (s : State) (x y : BitVec 16), s.inited = true → 0 ≤ signed x → signed x < 128 → 0 ≤ signed y →
    signed y < pages s.h64 → ∃ t, exec (.setpos x y) s = .next t ∧
      t.trace = s.trace ++ [{
        mode := .cmd, payload := posBytes (signed y).toNat ((signed x).toNat + colOff s.chip),
        answer := s.answerAt 0 }] ∧
      t.status = (if s.answerAt 0 = .ok then .ok else .errTransport) ∧
      (∀ k, t.answerAt k = s.answerAt (k + 1)) ∧
      (s.dev.mode = .page → s.dev.inbox = [] → s.answerAt 0 = .ok →
        t.dev = { s.dev with pg := (signed y).toNat, col := (signed x).toNat + colOff s.chip }) ∧
      t = { s with status := t.status, trace := t.trace, dev := t.dev, answers := t.answers,
                   answersDrawn := t.answersDrawn, busy := false, seq := Seq.start,
                   responses := s.responses ++ [t.status] }

/-- 40_display_controller.md R131 (the spec's decision D11, log entry 12): SETPOS off the display is a no-op with status
`OK`; the `INITED` test comes first. -/
def Obligations.SetposOffTheDisplayIsANoop : Prop :=
  ∀ (s : State) (x y : BitVec 16),
    (signed x < 0 ∨ 128 ≤ signed x ∨ signed y < 0 ∨ (pages s.h64 : Int) ≤ signed y) →
    exec (.setpos x y) s = .next
      { s with status := if s.inited then .ok else .errNotInit, busy := false, seq := Seq.start,
               responses := s.responses ++ [if s.inited then .ok else .errNotInit] }

/-- 40_display_controller.md R133, R135, R137: FLUSHPAGE of a page of the display sends that page's messages, the second
only if the first was answered `ok`; `FB` is read and not written. -/
def Obligations.FlushpageSendsOnePage : Prop :=
  ∀ (s : State) (ch : BitVec 8), s.inited = true → ch.toNat < pages s.h64 → ∃ t, exec (.flushpage ch) s = .next t ∧
    t.trace = s.trace ++ sentEvents s.answerAt (pageMessages s.chip s.fb ch.toNat) ∧
    t.status = sentStatus s.answerAt (pageMessages s.chip s.fb ch.toNat).length ∧
    t = { s with status := t.status, trace := t.trace, dev := t.dev, answers := t.answers,
                 answersDrawn := t.answersDrawn, busy := false, seq := Seq.start,
                 responses := s.responses ++ [t.status] }

/-- 40_display_controller.md R134: FLUSHPAGE with `CH` ≥ `PAGES` transmits nothing and completes with `OK`; the `INITED`
test comes first. -/
def Obligations.FlushpagePastTheLastPageIsANoop : Prop :=
  ∀ (s : State) (ch : BitVec 8), pages s.h64 ≤ ch.toNat →
    exec (.flushpage ch) s = .next
      { s with status := if s.inited then .ok else .errNotInit, busy := false, seq := Seq.start,
               responses := s.responses ++ [if s.inited then .ok else .errNotInit] }

/-- 60_exceptions.md R234 (the spec's decision D8, log entry 12): with `INITED` 0, SETPOS, FLUSHPAGE and FLUSH send nothing
and answer `ERR_NOTINIT`, whatever their operands; CLEAR does too, after its buffer clear; INIT and the drawing operations
do not test `INITED`. -/
def Obligations.BusOperationsNeedInit : Prop :=
  (∀ (s : State) (i : Instr), s.inited = false →
    ((∃ x y, i = .setpos x y) ∨ (∃ ch, i = .flushpage ch) ∨ i = .flush) →
    exec i s = .next { s with status := .errNotInit, busy := false, seq := Seq.start,
                              responses := s.responses ++ [.errNotInit] }) ∧
  (∀ s : State, s.inited = false → ∃ t, exec .clear s = .next t ∧
    (∀ p c, p < pages s.h64 → c < 128 → fbByte t.fb p c = 0) ∧
    t = { s with fb := t.fb, status := .errNotInit, busy := false, seq := Seq.start,
                 responses := s.responses ++ [.errNotInit] }) ∧
  (∀ (s : State) (i : Instr), i = .init ∨ isDrawing i = true →
    ∃ t u, exec i { s with inited := false } = .next t ∧ exec i { s with inited := true } = .next u ∧
      t.status = u.status ∧ t.trace = u.trace ∧ t.fb = u.fb)

/-- 40_display_controller.md R138 to R140 (R140 the spec's own inference): the trace of a FLUSH is the messages of the
pages in increasing order, up to and including the first failing one; the status is `OK` iff none failed; `FB` is the
same before and after. -/
def Obligations.FlushTraceIsTheMessageList : Prop :=
  ∀ s : State, s.inited = true → ∃ t, exec .flush s = .next t ∧
    t.trace = s.trace ++ sentEvents s.answerAt (flushMessages s.chip s.h64 s.fb) ∧
    t.status = sentStatus s.answerAt (flushMessages s.chip s.h64 s.fb).length ∧
    t = { s with status := t.status, trace := t.trace, dev := t.dev, answers := t.answers,
                 answersDrawn := t.answersDrawn, busy := false, seq := Seq.start,
                 responses := s.responses ++ [t.status] }

/-- 41_framebuffer_ops.md R151: CLEAR zeroes `FB` in every case and sends what FLUSH sends for the zeroed framebuffer.
-/
def Obligations.ClearZeroesAndSends : Prop :=
  ∀ s : State, s.inited = true → ∃ t, exec .clear s = .next t ∧
    (∀ p c, p < pages s.h64 → c < 128 → fbByte t.fb p c = 0) ∧
    t.trace = s.trace ++ sentEvents s.answerAt (flushMessages s.chip s.h64 t.fb) ∧
    t.status = sentStatus s.answerAt (flushMessages s.chip s.h64 t.fb).length ∧
    t = { s with fb := t.fb, status := t.status, trace := t.trace, dev := t.dev, answers := t.answers,
                 answersDrawn := t.answersDrawn, busy := false, seq := Seq.start,
                 responses := s.responses ++ [t.status] }

/-- 30_encoding.md R106, R107, 70_reset_and_hazards.md R280 (the spec's own inferences): a FLUSH all of whose messages
are answered `ok` sends `PAGES` messages on SSD1306 and 2 × `PAGES` on SH1106, in all `PAGES` × 129 and `PAGES` × 133
wire bytes. -/
def Obligations.FlushMessageAndWireByteCounts : Prop :=
  ∀ s t : State, s.inited = true → exec .flush s = .next t → t.status = .ok →
    (t.trace.drop s.trace.length).length = (match s.chip with | .ssd1306 => pages s.h64 | .sh1106 => 2 * pages s.h64) ∧
    ((t.trace.drop s.trace.length).map fun e => (wireImage e.mode e.payload).length).sum =
      (match s.chip with | .ssd1306 => pages s.h64 * 129 | .sh1106 => pages s.h64 * 133)

/-- 40_display_controller.md R122 to R127: the default sequence of every variant is the byte list of R127 and meets every
constraint; what INIT sends meets them in every state, and is the parameter given whenever that does. That the default
stands in for a list that does not is log entry 14; its byte values are general knowledge (93 GK2 to GK8), log entry 8. -/
def Obligations.DefaultInitSequences : Prop :=
  (∀ chip h64, initSeqOk chip h64 (encodeCommands (defaultInitSeq chip h64)) = true) ∧
  (∀ s : State, initSeqOk s.chip s.h64 (initPayload s) = true) ∧
  (∀ (s : State) (bs : List Byte), s.initSeq = some bs → initSeqOk s.chip s.h64 bs = true → initPayload s = bs) ∧
  (∀ s : State, s.initSeq = none → initPayload s = encodeCommands (defaultInitSeq s.chip s.h64)) ∧
  encodeCommands (defaultInitSeq .ssd1306 true) =
    [0xA8, 0x3F, 0x8D, 0x14, 0x20, 0x00, 0x21, 0x00, 0x7F, 0x22, 0x00, 0x07, 0xDA, 0x12, 0xA1, 0xC8, 0xAF] ∧
  encodeCommands (defaultInitSeq .ssd1306 false) =
    [0xA8, 0x1F, 0x8D, 0x14, 0x20, 0x00, 0x21, 0x00, 0x7F, 0x22, 0x00, 0x03, 0xDA, 0x02, 0xA1, 0xC8, 0xAF] ∧
  encodeCommands (defaultInitSeq .sh1106 true) =
    [0xAE, 0xA8, 0x3F, 0xD3, 0x00, 0x40, 0x81, 0x7F, 0xD5, 0x80, 0xDB, 0x40, 0x8D, 0x14, 0x20, 0x02, 0xDA, 0x12, 0xA1,
     0xC8, 0xAF] ∧
  encodeCommands (defaultInitSeq .sh1106 false) =
    [0xAE, 0xA8, 0x1F, 0xD3, 0x00, 0x40, 0x81, 0x7F, 0xD5, 0x80, 0xDB, 0x40, 0x8D, 0x14, 0x20, 0x02, 0xDA, 0x02, 0xA1,
     0xC8, 0xAF]

/-! ### The device mirror -/

/-- 44_device_commands.md R201 to R204, R208 to R215: each of these commands records its setting, or switches the panel,
and changes nothing else. -/
def Obligations.SettingCommandsRecord : Prop :=
  ∀ (s : State) (a : Byte) (b : Bool) (l : BitVec 6),
    exec .dispoff s = .next { s with dev := { s.dev with on := false } } ∧
    exec .dispon s = .next { s with dev := { s.dev with on := true } } ∧
    exec (.muxratio a) s = .next { s with dev := { s.dev with set := { s.dev.set with muxRatio := a } } } ∧
    exec (.chargepump a) s = .next { s with dev := { s.dev with set := { s.dev.set with chargePump := a } } } ∧
    exec (.compins a) s = .next { s with dev := { s.dev with set := { s.dev.set with comPins := a } } } ∧
    exec (.segremap b) s = .next { s with dev := { s.dev with set := { s.dev.set with segRemap := b } } } ∧
    exec (.comscan b) s = .next { s with dev := { s.dev with set := { s.dev.set with comScan := b } } } ∧
    exec (.dispoffset a) s = .next { s with dev := { s.dev with set := { s.dev.set with dispOffset := a } } } ∧
    exec (.startline l) s = .next { s with dev := { s.dev with set := { s.dev.set with startLine := l } } } ∧
    exec (.contrast a) s = .next { s with dev := { s.dev with set := { s.dev.set with contrast := a } } } ∧
    exec (.clockdiv a) s = .next { s with dev := { s.dev with set := { s.dev.set with clockDiv := a } } } ∧
    exec (.vcomh a) s = .next { s with dev := { s.dev with set := { s.dev.set with vcomh := a } } }

/-- 44_device_commands.md R205 to R207: the addressing mode by its argument; the ranges, with the pointer to their
start. -/
def Obligations.ModeAndRangeCommands : Prop :=
  ∀ (s : State) (a lo hi : Byte),
    exec (.addrmode a) s = .next { s with dev := { s.dev with
      mode := if a.toNat = 0 then .horizontal else if a.toNat = 2 then .page else .other } } ∧
    exec (.colrange lo hi) s = .next { s with dev := { s.dev with
      colStart := lo.toNat, colEnd := hi.toNat, col := lo.toNat } } ∧
    exec (.pagerange lo hi) s = .next { s with dev := { s.dev with
      pgStart := lo.toNat, pgEnd := hi.toNat, pg := lo.toNat } }

/-- 44_device_commands.md R216 to R218: in page mode SETPAGE sets the page, SETCOLLO and SETCOLHI the column's
nibbles. -/
def Obligations.PositionCommandsInPageMode : Prop :=
  ∀ (s : State) (p : BitVec 3) (n : BitVec 4), s.dev.mode = .page →
    exec (.setpage p) s = .next { s with dev := { s.dev with pg := p.toNat } } ∧
    exec (.setcollo n) s = .next { s with dev := { s.dev with col := s.dev.col / 16 * 16 + n.toNat } } ∧
    exec (.setcolhi n) s = .next { s with dev := { s.dev with col := n.toNat * 16 + s.dev.col % 16 } }

/-- 44_device_commands.md R216 to R218, U10: in horizontal mode the pointer they move is unspecified, and nothing else
changes. That it is so in mode other, of which these rules do not speak, and that the unspecified page and column lie in
R79's ranges, is the model's choice, log entry 7. -/
def Obligations.PositionCommandsOutsidePageMode : Prop :=
  ∀ (s : State) (p : BitVec 3) (n : BitVec 4), s.dev.mode ≠ .page →
    (∃ t, exec (.setpage p) s = .next t ∧ t.dev.pg < 8 ∧
      t = { s with dev := { s.dev with pg := t.dev.pg, drawn := s.dev.drawn + 1 } }) ∧
    (∃ t, exec (.setcollo n) s = .next t ∧ t.dev.col < devCols s.chip ∧
      t = { s with dev := { s.dev with col := t.dev.col, drawn := s.dev.drawn + 1 } }) ∧
    (∃ t, exec (.setcolhi n) s = .next t ∧ t.dev.col < devCols s.chip ∧
      t = { s with dev := { s.dev with col := t.dev.col, drawn := s.dev.drawn + 1 } })

/-- 44_device_commands.md R219 (the spec's own inference from R216 to R218): after (`CMD`, `POS(p, dc)`) answered `ok`
with `DEV.mode` = page, `DEV.pg` = `p` and `DEV.col` = `dc`. -/
def Obligations.PositionPayloadMovesThePointer : Prop :=
  ∀ (chip : Chip) (d : Dev) (p dc : Nat), d.mode = .page → d.inbox = [] → p < 8 → dc < 256 →
    d.deliver chip { mode := .cmd, payload := posPayload p dc, answer := .ok } = { d with pg := p, col := dc }

/-- 30_encoding.md R104: `POS(page, dc)` is the three bytes of the rule's formula. Their values are R103's general
knowledge (log entry 8), their order the spec's decision D11. -/
def Obligations.PositionPayloadBytes : Prop :=
  ∀ p dc : Nat, p < 8 → dc < 256 → posPayload p dc = posBytes p dc

/-- 20_memory.md R80 to R82: a data byte lands at the pointer; in horizontal mode the pointer advances within the ranges and
wraps to their starts (the wrap is general knowledge, log entry 8), in page mode the column advances and the page stays;
past the last column of page mode the column is unspecified (U9, log entry 7). That in a mode R81 and R82 do not speak of
the whole pointer is unspecified is the model's choice, log entry 7. -/
def Obligations.DataByteAdvancesThePointer : Prop :=
  ∀ (chip : Chip) (d : Dev) (v : Byte), d.pg < 8 → d.col < devCols chip →
    (d.mode = .horizontal →
      d.dataByte chip v =
        (if d.col < d.colEnd then { d with ram := d.ram.write (devAddr d.pg d.col) v, col := d.col + 1 }
         else { d with ram := d.ram.write (devAddr d.pg d.col) v, col := d.colStart,
                       pg := if d.pg < d.pgEnd then d.pg + 1 else d.pgStart })) ∧
    (d.mode = .page → d.col + 1 < devCols chip →
      d.dataByte chip v = { d with ram := d.ram.write (devAddr d.pg d.col) v, col := d.col + 1 }) ∧
    (d.mode = .page → d.col + 1 = devCols chip →
      ∃ col, col < devCols chip ∧
        d.dataByte chip v = { d with ram := d.ram.write (devAddr d.pg d.col) v, col := col, drawn := d.drawn + 1 }) ∧
    (d.mode = .other →
      ∃ pg col, pg < 8 ∧ col < devCols chip ∧
        d.dataByte chip v =
          { d with ram := d.ram.write (devAddr d.pg d.col) v, pg := pg, col := col, drawn := d.drawn + 2 })

/-- 20_memory.md R84, U8 (what is unspecified is a free value, log entry 7): after a message answered `fail`, what it could
have written is unspecified and nothing else of the device has changed. A position message (SETPOS) loses the pointer,
within the device's pages and columns. The init message loses what its commands write: never the device's memory, on
SSD1306 none of the settings only SH1106's sequence writes (R124), on SH1106 with the default sequence neither pointer nor
ranges. A page data message (FLUSHPAGE) loses the pointer and the bytes from the pointer on: on an SSD1306 ready for FLUSH
those of device page 0, on an SH1106 in page mode those of the page's 128 columns from 2 on. -/
def Obligations.FailedMessageLosesOnlyWhatItCouldWrite : Prop :=
  (∀ (s : State) (x y : BitVec 16), s.inited = true → 0 ≤ signed x → signed x < 128 → 0 ≤ signed y →
    signed y < pages s.h64 → s.answerAt 0 = .fail → ∃ t, exec (.setpos x y) s = .next t ∧
      t.status = .errTransport ∧ t.dev.pg < 8 ∧ t.dev.col < devCols s.chip ∧
      t.dev = { s.dev with pg := t.dev.pg, col := t.dev.col, drawn := t.dev.drawn }) ∧
  (∀ s : State, s.answerAt 0 = .fail → ∃ t, exec .init s = .next t ∧ t.status = .errTransport ∧
    t.dev = { s.dev with
      pg := t.dev.pg, col := t.dev.col, mode := t.dev.mode, colStart := t.dev.colStart, colEnd := t.dev.colEnd,
      pgStart := t.dev.pgStart, pgEnd := t.dev.pgEnd, on := t.dev.on, set := t.dev.set, drawn := t.dev.drawn } ∧
    (s.chip = .ssd1306 →
      t.dev.set = { s.dev.set with
        muxRatio := t.dev.set.muxRatio, chargePump := t.dev.set.chargePump, comPins := t.dev.set.comPins,
        segRemap := t.dev.set.segRemap, comScan := t.dev.set.comScan }) ∧
    (s.chip = .sh1106 → s.initSeq = none →
      t.dev = { s.dev with mode := t.dev.mode, on := t.dev.on, set := t.dev.set, drawn := t.dev.drawn })) ∧
  (∀ (s : State) (ch : BitVec 8), s.chip = .ssd1306 → s.inited = true → s.dev.Ready s.h64 → ch.toNat < pages s.h64 →
    s.answerAt 0 = .fail → ∃ t, exec (.flushpage ch) s = .next t ∧
      t.status = .errTransport ∧ t.dev.pg < 8 ∧ t.dev.col < devCols s.chip ∧
      (∀ p c, c < 256 → ¬ (p = 0 ∧ c < 128) → devByte t.dev.ram p c = devByte s.dev.ram p c) ∧
      t.dev = { s.dev with ram := t.dev.ram, pg := t.dev.pg, col := t.dev.col, drawn := t.dev.drawn }) ∧
  (∀ (s : State) (ch : BitVec 8), s.chip = .sh1106 → s.inited = true → s.dev.mode = .page → s.dev.inbox = [] →
    ch.toNat < pages s.h64 → s.answerAt 0 = .ok → s.answerAt 1 = .fail → ∃ t, exec (.flushpage ch) s = .next t ∧
      t.status = .errTransport ∧ t.dev.pg < 8 ∧ t.dev.col < devCols s.chip ∧
      (∀ p c, c < 256 → ¬ (p = ch.toNat ∧ 2 ≤ c ∧ c < 130) → devByte t.dev.ram p c = devByte s.dev.ram p c) ∧
      t.dev = { s.dev with ram := t.dev.ram, pg := t.dev.pg, col := t.dev.col, drawn := t.dev.drawn })

/-- 70_reset_and_hazards.md R263, R266, 44_device_commands.md R202, R203, R205 to R207: after an INIT answered `ok`, whatever
sequence that meets R122 to R126 it sends, the panel is on and `HEIGHT` rows are driven; an SSD1306 is ready for FLUSH, an
SH1106 is in page mode. The commands' effects on the mirror are log entry 8. -/
def Obligations.InitLeavesTheDeviceReady : Prop :=
  ∀ s : State, s.dev.inbox = [] → s.answerAt 0 = .ok → ∃ t, exec .init s = .next t ∧
    t.dev.on = true ∧ t.dev.inbox = [] ∧ t.dev.ram = s.dev.ram ∧ t.dev.drivenRows s.h64 = height s.h64 ∧
    (s.chip = .ssd1306 → t.dev.Ready s.h64) ∧ (s.chip = .sh1106 → t.dev.mode = .page)

/-- 20_memory.md R85 (a) (the spec's own inference): on SH1106 in page mode, a FLUSH that returns `OK` leaves the
visible window of the device's memory equal to the framebuffer, wherever the pointer was; device columns 0, 1, 130 and
131 keep their bytes. The mirror's rules are log entry 8. -/
def Obligations.FlushShowsFramebufferOnSh1106 : Prop :=
  ∀ s t : State, s.chip = .sh1106 → s.inited = true → s.dev.mode = .page → s.dev.inbox = [] →
    exec .flush s = .next t → t.status = .ok →
    showsFramebuffer t ∧
    (∀ p c, c = 0 ∨ c = 1 ∨ c = 130 ∨ c = 131 → devByte t.dev.ram p c = devByte s.dev.ram p c) ∧
    t.dev.mode = .page ∧ t.dev.inbox = []

/-- 20_memory.md R85 (b) (the spec's own inference), 44_device_commands.md R207: on SSD1306, from a device ready for
it, a FLUSH that returns `OK` leaves the device's memory equal to the framebuffer and the device ready for the next
one. The wrap of the pointer and the mirror's other rules are log entry 8. -/
def Obligations.FlushShowsFramebufferOnSsd1306 : Prop :=
  ∀ s t : State, s.chip = .ssd1306 → s.inited = true → s.dev.Ready s.h64 →
    exec .flush s = .next t → t.status = .ok → showsFramebuffer t ∧ t.dev.Ready s.h64

/-- 70_reset_and_hazards.md R266 (a) (the spec's own inference), 95_test_vectors.md V65: on SSD1306 a FLUSHPAGE on its own
sends page `p`'s bytes to device page 0 and leaves the pointer one page further, so that the device is not ready for
FLUSH: a FLUSH that then returns `OK` shows every page of the framebuffer one device page too far, the last one on device
page 0, and leaves the pointer where it was. The mirror's rules are log entry 8. -/
def Obligations.FlushpageAloneLandsOnPageZeroOfSsd1306 : Prop :=
  ∀ (s : State) (ch : BitVec 8), s.chip = .ssd1306 → s.inited = true → s.dev.Ready s.h64 → ch.toNat < pages s.h64 →
    s.answerAt 0 = .ok → ∃ t, exec (.flushpage ch) s = .next t ∧ t.status = .ok ∧
      (∀ c, c < 128 → devByte t.dev.ram 0 c = fbByte s.fb ch.toNat c) ∧ t.dev.pg = 1 ∧ t.dev.col = 0 ∧
      ¬ t.dev.Ready s.h64 ∧
      ∀ u, exec .flush t = .next u → u.status = .ok →
        (∀ p c, p < pages s.h64 → c < 128 → devByte u.dev.ram ((p + 1) % pages s.h64) c = fbByte s.fb p c) ∧
        u.dev.pg = 1 ∧ u.dev.col = 0

/-! ### The whole machine -/

/-- 10_state.md R30, 30_encoding.md R100: an instruction only appends to the trace, and only the init message, position
messages, and page data messages of the framebuffer as it then is. -/
def Obligations.TraceGrowsByLegalMessages : Prop :=
  ∀ (i : Instr) (s t : State), exec i s = .next t → ∃ es, t.trace = s.trace ++ es ∧
    ∀ e ∈ es, (i = .init ∧ isInitMessage s e) ∨ isPositionMessage e ∨ isPageDataMessage s.h64 t.fb e

/-- 10_state.md R23: `INITED` is written only by INIT. -/
def Obligations.OnlyInitWritesInited : Prop :=
  ∀ (i : Instr) (s t : State), exec i s = .next t → i ≠ .init → t.inited = s.inited

/-- 10_state.md R21: of the operations that reach the bus only CLEAR writes `FB`; no command writes it either. -/
def Obligations.OnlyDrawingAndClearWriteFramebuffer : Prop :=
  ∀ (i : Instr) (s t : State), exec i s = .next t → isDrawing i = false → i ≠ .clear → t.fb = s.fb

/-- 44_device_commands.md R200 to R218, 10_state.md R31: a controller command is carried out in every state and
changes the device alone. -/
def Obligations.CommandsChangeTheDeviceAlone : Prop :=
  ∀ (i : Instr) (s : State), i.port = .device → ∃ t, exec i s = .next t ∧ t = { s with dev := t.dev }

/-- 10_state.md R22, R38: no step changes the variant, the source memory, the glyph tables or the init sequence. -/
def Obligations.VariantAndParametersNeverChange : Prop :=
  ∀ s t : State, step s = .next t →
    t.chip = s.chip ∧ t.h64 = s.h64 ∧ t.src = s.src ∧ t.g8 = s.g8 ∧ t.g6 = s.g6 ∧ t.g5 = s.g5 ∧ t.initSeq = s.initSeq

/-- 20_memory.md R51, R65, 30_encoding.md R100, R107: the invariant of the model's state at request boundaries is kept
by every step, from every state that meets it. -/
def Obligations.EveryStepKeepsTheInvariant : Prop :=
  ∀ s t : State, s.Inv → step s = .next t → t.Inv

/-- 10_state.md R37, 70_reset_and_hazards.md R261: after reset, with every strap setting, the invariant holds; and a reset of
the block alone, the straps as they were, keeps it, whatever `FB` then holds. The values R37 leaves unspecified are log
entries 5 and 6; the reset of a running block is log entry 18. -/
def Obligations.ResetMeetsTheInvariant : Prop :=
  (∀ (chip : Chip) (h64 : Bool), (State.resetWith chip h64).Inv) ∧
  ∀ (s : State) (fb : Memory), s.Inv → fb.wf = true → fb.below (fbSize s.h64) = true →
    (s.resetBlock s.chip s.h64 fb).Inv

/-- 10_state.md R22, R37, 70_reset_and_hazards.md R260, R261: the variant is taken from the straps; `INITED`, `STATUS`,
`BUSY` are 0, `SEQ` is at its start, the trace is empty, and `FB` holds nothing but unspecified bytes. A reset of the block
alone gives the same of any state and any `FB`, and leaves the device's memory, pointer and settings as they were, and the
source memory and glyph tables of R38 too. That it keeps the inputs not yet taken is the model's choice, log entry 18; so
is that the one `INIT_SEQ` list stays with other straps too, though R11 leaves it open per variant, log entries 14 and
18. -/
def Obligations.ResetValues : Prop :=
  (∀ (chip : Chip) (h64 : Bool),
    (State.resetWith chip h64).chip = chip ∧ (State.resetWith chip h64).h64 = h64 ∧
    (State.resetWith chip h64).inited = false ∧ (State.resetWith chip h64).status.code = 0 ∧
    (State.resetWith chip h64).busy = false ∧
    (State.resetWith chip h64).seq = { pg := 0, ph := 0, i := 0, j := 0, k := 0 } ∧
    (State.resetWith chip h64).trace = [] ∧ (∀ a, fbRead (State.resetWith chip h64).fb a = Config.fbPowerUp a)) ∧
  ∀ (s : State) (chip : Chip) (h64 : Bool) (fb : Memory),
    (s.resetBlock chip h64 fb).chip = chip ∧ (s.resetBlock chip h64 fb).h64 = h64 ∧
    (s.resetBlock chip h64 fb).inited = false ∧ (s.resetBlock chip h64 fb).status.code = 0 ∧
    (s.resetBlock chip h64 fb).busy = false ∧
    (s.resetBlock chip h64 fb).seq = { pg := 0, ph := 0, i := 0, j := 0, k := 0 } ∧
    (s.resetBlock chip h64 fb).trace = [] ∧ (s.resetBlock chip h64 fb).fb = fb ∧
    (s.resetBlock chip h64 fb).dev = s.dev ∧ (s.resetBlock chip h64 fb).src = s.src ∧
    (s.resetBlock chip h64 fb).g8 = s.g8 ∧ (s.resetBlock chip h64 fb).g6 = s.g6 ∧
    (s.resetBlock chip h64 fb).g5 = s.g5 ∧ (s.resetBlock chip h64 fb).initSeq = s.initSeq ∧
    (s.resetBlock chip h64 fb).requests = s.requests ∧ (s.resetBlock chip h64 fb).answers = s.answers ∧
    (s.resetBlock chip h64 fb).answersDrawn = s.answersDrawn

/-- 00_scope.md R9, R10: the two variant registers give exactly the four legal variants. -/
def Obligations.FourLegalVariants : Prop :=
  ∀ v : DisplayVariant, v.wellFormed = true ↔ ∃ chip h64, v = variantOf chip h64

/-- 30_encoding.md R98, R99: a line of text for each of the 17 requests, and the assembler's own three kinds of line,
assemble to the requests they stand for. Three points of the text are the model's choice, log entry 17: placed bytes start
at a given address, a `;` inside a text is a character of it, and a byte of `.bytes` may be a quoted character. -/
def Obligations.TextAssemblesToRequests : Prop :=
  assemble { names := [], src := [], free := 0x2000 }
    ["INIT".toList, "SETPOS 127, 7".toList, "FLUSHPAGE 9".toList, "FLUSH ; a comment".toList, "CLRBUF".toList,
     "CLEAR".toList, "SETPIXEL -1, 10, 1".toList, "DRAWBITMAP -2, -4, 4, 10, @0x3000".toList,
     "DRAWHLINE 120, 0, 20, 1".toList, "DRAWVLINE 64, 60, 10, 0".toList, "DRAWRECT 0, 0, 10, 5, 1".toList,
     "DRAWCHAR8 0, 4, 'A'".toList, "DRAWCHAR6 3, 8, 200".toList, "DRAWCHAR5 0, 0, 0x21".toList,
     ".bytes t: 0x41, 0, 'B'".toList, "DRAWSTR8 -8, 0, @t, 3".toList, "DRAWSTR6 114, 56, @0x3100, 4".toList,
     "DRAWSTR5 0, 0, @t, 2".toList, "DRAWCHAR 5x8, 0, 0, '!'".toList, "DRAWSTRING 6x8, 0, 0, \"A;\"".toList] =
  some ({ names := [("t".toList, 0x2000)],
          src := [(0x2000, 0x41), (0x2001, 0x00), (0x2002, 0x42), (0x2003, 0x41), (0x2004, 0x3B)], free := 0x2005 },
    [.init, .setpos 127 7, .flushpage 9, .flush, .clrbuf, .clear, .setpixel true 0xFFFF 10,
     .drawbitmap 0xFFFE 0xFFFC 4 10 0x3000, .drawhline true 120 0 20, .drawvline false 64 60 10, .drawrect true 0 0 10 5,
     .drawchar8 0x41 0 4, .drawchar6 200 3 8, .drawchar5 0x21 0 0, .drawstr8 0xFFF8 0 3 0x2000,
     .drawstr6 114 56 4 0x3100, .drawstr5 0 0 2 0x2000, .drawchar5 0x21 0 0, .drawstr6 0 0 2 0x2003])
end

