-- ==== Sys2Proof/Laws/Memory.lean ====
section
/-! SUPPORT. Loops and memories: what a bounded loop keeps, what a read after a write gives, that writing keeps the
canonical form, and the cleared framebuffer. -/

namespace Sys2Proof.Machine

/-! ### `forUp` -/

@[simp] theorem forUp_zero {α : Type} (f : Nat → α → α) (a : α) : forUp 0 f a = a := rfl

@[simp] theorem forUp_succ {α : Type} (n : Nat) (f : Nat → α → α) (a : α) :
    forUp (n + 1) f a = f n (forUp n f a) := rfl

/-- A property the body keeps holds after the loop. -/
theorem forUp_keeps {α : Type} (P : α → Prop) (f : Nat → α → α) (n : Nat) (a : α) (h0 : P a)
    (hstep : ∀ i b, i < n → P b → P (f i b)) : P (forUp n f a) := by
  induction n with
  | zero => exact h0
  | succ n ih => exact hstep n _ (Nat.lt_succ_self n) (ih fun i b hi => hstep i b (Nat.lt_succ_of_lt hi))

namespace Memory

theorem read?_write (m : Memory) (a b : Nat) (v : Byte) :
    read? (write m a v) b = if b = a then some v else read? m b := by
  induction m with
  | nil => by_cases h : b = a <;> simp [write, read?, h]
  | cons c m ih =>
    obtain ⟨k, w⟩ := c
    simp only [write]
    split
    · simp only [read?]
      split_ifs <;> first | rfl | omega
    · split
      · subst k
        simp only [read?]
        split_ifs <;> first | rfl | omega
      · simp only [read?, ih]
        split_ifs <;> first | rfl | omega

@[simp] theorem read?_write_same (m : Memory) (a : Nat) (v : Byte) : read? (write m a v) a = some v := by
  simp [read?_write]

theorem read?_write_other (m : Memory) {a b : Nat} (v : Byte) (h : b ≠ a) : read? (write m a v) b = read? m b := by
  simp [read?_write, h]

theorem risingFrom_mono {lo lo' : Nat} (m : Memory) (h : lo' ≤ lo) (hm : risingFrom lo m = true) :
    risingFrom lo' m = true := by
  cases m with
  | nil => rfl
  | cons c m =>
    obtain ⟨k, w⟩ := c
    simp only [risingFrom, Bool.and_eq_true, decide_eq_true_eq] at hm ⊢
    exact ⟨by omega, hm.2⟩

theorem risingFrom_write {lo a : Nat} (m : Memory) (v : Byte) (hlo : lo ≤ a) (hm : risingFrom lo m = true) :
    risingFrom lo (write m a v) = true := by
  induction m generalizing lo with
  | nil => simpa [write, risingFrom] using hlo
  | cons c m ih =>
    obtain ⟨k, w⟩ := c
    simp only [risingFrom, Bool.and_eq_true, decide_eq_true_eq] at hm
    simp only [write]
    split
    · simp only [risingFrom, Bool.and_eq_true, decide_eq_true_eq]
      exact ⟨hlo, by omega, hm.2⟩
    · split
      · subst k
        simp only [risingFrom, Bool.and_eq_true, decide_eq_true_eq]
        exact ⟨hlo, hm.2⟩
      · simp only [risingFrom, Bool.and_eq_true, decide_eq_true_eq]
        exact ⟨hm.1, ih (by omega) hm.2⟩

/-- Every write keeps the canonical form. -/
theorem wf_write (m : Memory) (a : Nat) (v : Byte) (hm : m.wf = true) : (m.write a v).wf = true :=
  risingFrom_write m v (Nat.zero_le a) hm

theorem all_write (p : Host.Cell → Bool) (m : Memory) (a : Nat) (v : Byte) (ha : p (a, v) = true)
    (hm : m.all p = true) : (m.write a v).all p = true := by
  induction m with
  | nil => simpa [write] using ha
  | cons c m ih =>
    obtain ⟨k, w⟩ := c
    simp only [List.all_cons, Bool.and_eq_true] at hm
    simp only [write]
    split
    · simp only [List.all_cons, Bool.and_eq_true]; exact ⟨ha, hm⟩
    · split
      · simp only [List.all_cons, Bool.and_eq_true]; exact ⟨ha, hm.2⟩
      · simp only [List.all_cons, Bool.and_eq_true]; exact ⟨hm.1, ih hm.2⟩

/-- A write inside the space leaves every listed address inside it. -/
theorem below_write {n : Nat} (m : Memory) (a : Nat) (v : Byte) (ha : a < n) (hm : m.below n = true) :
    (m.write a v).below n = true :=
  all_write _ m a v (by simpa using ha) hm

/-- Two canonical memories with the same contents are the same list. -/
theorem ext_of_risingFrom {lo : Nat} (m n : Memory) (hm : risingFrom lo m = true) (hn : risingFrom lo n = true)
    (h : ∀ a, read? m a = read? n a) : m = n := by
  induction m generalizing lo n with
  | nil =>
    cases n with
    | nil => rfl
    | cons d n => obtain ⟨l, x⟩ := d; have := h l; simp [read?] at this
  | cons c m ih =>
    obtain ⟨k, w⟩ := c
    cases n with
    | nil => have := h k; simp [read?] at this
    | cons d n =>
      obtain ⟨l, x⟩ := d
      simp only [risingFrom, Bool.and_eq_true, decide_eq_true_eq] at hm hn
      have hk := h k
      have hl := h l
      simp only [read?, lt_irrefl, if_false, if_true] at hk hl
      have hkl : k = l := by
        by_contra hne
        rcases Nat.lt_or_gt_of_ne hne with hlt | hgt
        · simp [hlt] at hk
        · simp [hgt] at hl
      subst l
      simp only [lt_irrefl, if_false, if_true, Option.some.injEq] at hk
      subst x
      have hrest : ∀ a, read? m a = read? n a := by
        intro a
        by_cases hak : a ≤ k
        · have low : ∀ p : Memory, risingFrom (k + 1) p = true → read? p a = none := by
            intro p hp
            cases p with
            | nil => rfl
            | cons e p =>
              obtain ⟨q, y⟩ := e
              simp only [risingFrom, Bool.and_eq_true, decide_eq_true_eq] at hp
              have : a < q := by omega
              simp [read?, this]
          rw [low m hm.2, low n hn.2]
        · have hlt : ¬ a < k := by omega
          have hne : a ≠ k := by omega
          simpa [read?, hlt, hne] using h a
      rw [ih n hm.2 hn.2 hrest]

/-- Equal memories are equal data. -/
theorem ext_of_wf (m n : Memory) (hm : m.wf = true) (hn : n.wf = true) (h : ∀ a, read? m a = read? n a) : m = n :=
  ext_of_risingFrom m n hm hn h

end Memory

/-! ### `FB` -/

theorem fbRead_write (fb : Memory) (a b : Nat) (v : Byte) :
    fbRead (fb.write a v) b = if b = a then v else fbRead fb b := by
  simp only [fbRead, Memory.read?_write]
  split_ifs <;> simp

theorem devByte_write (ram : Memory) (a pg dc : Nat) (v : Byte) :
    devByte (ram.write a v) pg dc = if devAddr pg dc = a then v else devByte ram pg dc := by
  simp only [devByte, Memory.read?_write]
  split_ifs <;> simp

theorem read?_map_range_from (n k a : Nat) :
    Memory.read? ((List.range' k n).map fun a => ((a, 0#8) : Host.Cell)) a =
      if k ≤ a ∧ a < k + n then some 0#8 else none := by
  induction n generalizing k with
  | zero => simp [Memory.read?]
  | succ n ih =>
    simp only [List.range'_succ, List.map_cons, Memory.read?, ih]
    split_ifs <;> first | rfl | omega

/-- The cleared framebuffer lists a 0 at every address of `FB` and nothing else. -/
theorem read?_fbZero (h64 : Bool) (a : Nat) :
    Memory.read? (fbZero h64) a = if a < fbSize h64 then some 0#8 else none := by
  simp [fbZero, List.range_eq_range', read?_map_range_from]

theorem fbRead_fbZero (h64 : Bool) {a : Nat} (ha : a < fbSize h64) : fbRead (fbZero h64) a = 0 := by
  simp [fbRead, read?_fbZero, ha]

theorem risingFrom_map_range' (n k : Nat) :
    Memory.risingFrom k ((List.range' k n).map fun a => ((a, 0#8) : Host.Cell)) = true := by
  induction n generalizing k with
  | zero => rfl
  | succ n ih => simp [List.range'_succ, Memory.risingFrom, ih]

theorem wf_fbZero (h64 : Bool) : (fbZero h64).wf = true := by
  simp only [fbZero, List.range_eq_range', Memory.wf]
  exact risingFrom_map_range' _ _

theorem below_fbZero (h64 : Bool) : (fbZero h64).below (fbSize h64) = true := by
  simp [fbZero, Memory.below]

end Sys2Proof.Machine
end

