-- ==== Sys2Proof/Laws/Device.lean ====
section
/-! SUPPORT. The device mirror: what each message keeps (its memory stays canonical and inside the device, its registers
keep their widths), and what a run of data bytes stores in each addressing mode. -/

namespace Sys2Proof.Machine

theorem devAddr_inj {p q c d : Nat} (hc : c < 256) (hd : d < 256) : devAddr p c = devAddr q d ↔ p = q ∧ c = d := by
  unfold devAddr; omega

theorem devCols_cases (chip : Chip) : devCols chip = 128 ∨ devCols chip = 132 := by cases chip <;> simp [devCols]

theorem freeCol_lt (chip : Chip) (n : Nat) : freeCol chip n < devCols chip :=
  Nat.mod_lt _ (by cases chip <;> decide)

theorem freePage_lt (n : Nat) : freePage n < 8 := Nat.mod_lt _ (by decide)

namespace Dev

/-! ### What every message keeps -/

theorem Inv.losesCol {chip : Chip} {d : Dev} (h : d.Inv chip) : (d.losesCol chip).Inv chip := by
  have := freeCol_lt chip d.drawn
  have := devCols_cases chip
  exact { h with col_byte := by simp only [Dev.losesCol]; omega }

theorem Inv.losesPage {chip : Chip} {d : Dev} (h : d.Inv chip) : d.losesPage.Inv chip := by
  have := freePage_lt d.drawn
  exact { h with pg_byte := by simp only [Dev.losesPage]; omega }

theorem Inv.losesPointer {chip : Chip} {d : Dev} (h : d.Inv chip) : (d.losesPointer chip).Inv chip :=
  h.losesPage.losesCol

theorem Inv.withInbox {chip : Chip} {d : Dev} (h : d.Inv chip) (bs : List Byte) : ({ d with inbox := bs }).Inv chip :=
  { h with }

/-- Every command keeps the device's invariant. -/
theorem Inv.command {chip : Chip} {d : Dev} (h : d.Inv chip) (i : Instr) : (d.command chip i).Inv chip := by
  have hcol := h.col_byte
  cases i
  case setcollo n =>
    have := n.isLt
    simp only [Dev.command, Dev.setColLo]
    split
    · exact { h with col_byte := by simp only; omega }
    · exact h.losesCol
    · exact h.losesCol
  case setcolhi n =>
    have := n.isLt
    simp only [Dev.command, Dev.setColHi]
    split
    · exact { h with col_byte := by simp only; omega }
    · exact h.losesCol
    · exact h.losesCol
  case setpage p =>
    have := p.isLt
    simp only [Dev.command, Dev.setPage]
    split
    · exact { h with pg_byte := by simp only; omega }
    · exact h.losesPage
    · exact h.losesPage
  case colrange lo hi =>
    exact { h with col_byte := lo.isLt, colStart_byte := lo.isLt, colEnd_byte := hi.isLt }
  case pagerange lo hi =>
    exact { h with pg_byte := lo.isLt, pgStart_byte := lo.isLt, pgEnd_byte := hi.isLt }
  all_goals exact { h with }

/-- Losing what a command could have written keeps the device's invariant (R84). -/
theorem Inv.loseCommand {chip : Chip} {d : Dev} (h : d.Inv chip) (i : Instr) : (d.loseCommand chip i).Inv chip := by
  cases i
  case setcollo n => exact h.losesCol
  case setcolhi n => exact h.losesCol
  case setpage p => exact h.losesPage
  case colrange lo hi =>
    have := freeCol_lt chip (d.drawn + 2)
    have := devCols_cases chip
    exact { h with
      col_byte := by simp only [Dev.loseCommand]; omega
      colStart_byte := (Config.deviceByte d.drawn).isLt
      colEnd_byte := (Config.deviceByte (d.drawn + 1)).isLt }
  case pagerange lo hi =>
    have := freePage_lt (d.drawn + 2)
    exact { h with
      pg_byte := by simp only [Dev.loseCommand]; omega
      pgStart_byte := (Config.deviceByte d.drawn).isLt
      pgEnd_byte := (Config.deviceByte (d.drawn + 1)).isLt }
  all_goals exact { h with }

theorem Inv.store {chip : Chip} {d : Dev} (h : d.Inv chip) (v : Byte) : (d.store chip v).Inv chip := by
  unfold Dev.store
  split
  next hin =>
    have := devCols_cases chip
    refine { h with ram_wf := Memory.wf_write _ _ _ h.ram_wf, ram_inside := Memory.all_write _ _ _ _ ?_ h.ram_inside }
    have hpg : (d.pg * 256 + d.col) / 256 < 8 := by omega
    have hcol : (d.pg * 256 + d.col) % 256 < devCols chip := by omega
    simp only [devAddr, hpg, hcol, decide_true, Bool.and_self]
  next => exact h

theorem Inv.advance {chip : Chip} {d : Dev} (h : d.Inv chip) : (d.advance chip).Inv chip := by
  have hcol := h.col_byte
  have hpg := h.pg_byte
  have hce := h.colEnd_byte
  have hpe := h.pgEnd_byte
  unfold Dev.advance
  split
  · split
    · exact { h with col_byte := by simp only; omega }
    · refine { h with col_byte := h.colStart_byte, pg_byte := ?_ }
      simp only
      split
      · omega
      · exact h.pgStart_byte
  · split
    · have := devCols_cases chip
      exact { h with col_byte := by simp only; omega }
    · exact h.losesCol
  · exact h.losesPointer

theorem Inv.takeData {chip : Chip} {d : Dev} (h : d.Inv chip) (bs : List Byte) : (d.takeData chip bs).Inv chip := by
  unfold Dev.takeData
  induction bs generalizing d with
  | nil => exact h
  | cons b bs ih => exact ih (h.store b).advance

theorem Inv.takeCmd {chip : Chip} {d : Dev} (h : d.Inv chip) (bs : List Byte) : (d.takeCmd chip bs).Inv chip := by
  have : ∀ (is : List Instr) (e : Dev), e.Inv chip → (is.foldl (fun d i => d.command chip i) e).Inv chip := by
    intro is
    induction is with
    | nil => exact fun _ he => he
    | cons i is ih => exact fun e he => ih _ (he.command i)
  exact (this _ _ (h.withInbox [])).withInbox _

theorem Inv.loseCmd {chip : Chip} {d : Dev} (h : d.Inv chip) (bs : List Byte) : (d.loseCmd chip bs).Inv chip := by
  unfold Dev.loseCmd
  generalize (parseCommands bs).1 = is
  induction is generalizing d with
  | nil => exact h
  | cons i is ih => exact ih (h.loseCommand i)

/-- Every message keeps the device's invariant, whatever its answer (R80, R84). -/
theorem Inv.deliver {chip : Chip} {d : Dev} (h : d.Inv chip) (e : Event) : (d.deliver chip e).Inv chip := by
  unfold Dev.deliver
  split
  · exact h.takeCmd _
  · exact h.takeData _
  · exact h.loseCmd _
  · have h' : ({ d with drawn := d.drawn + e.payload.length }).Inv chip := { h with }
    exact (h'.takeData _).losesPointer

/-! ### Runs of data bytes -/

/-- One data byte inside a row of the horizontal range, the pointer inside the device (R81). -/
theorem dataByte_inRow {chip : Chip} {d : Dev} (v : Byte) (hm : d.mode = .horizontal) (hp : d.pg < 8)
    (hc : d.col < devCols chip) (he : d.col < d.colEnd) :
    d.dataByte chip v = { d with ram := d.ram.write (devAddr d.pg d.col) v, col := d.col + 1 } := by
  simp [dataByte, store, advance, hp, hc, hm, he]

/-- The last data byte of a row of the horizontal range (R81). -/
theorem dataByte_endRow {chip : Chip} {d : Dev} (v : Byte) (hm : d.mode = .horizontal) (hp : d.pg < 8)
    (hc : d.col < devCols chip) (he : ¬ d.col < d.colEnd) :
    d.dataByte chip v = { d with
      ram := d.ram.write (devAddr d.pg d.col) v, col := d.colStart,
      pg := if d.pg < d.pgEnd then d.pg + 1 else d.pgStart } := by
  simp [dataByte, store, advance, hp, hc, hm, he]

/-- One data byte in page mode, short of the last column (R82). -/
theorem dataByte_inPage {chip : Chip} {d : Dev} (v : Byte) (hm : d.mode = .page) (hp : d.pg < 8)
    (hc : d.col + 1 < devCols chip) :
    d.dataByte chip v = { d with ram := d.ram.write (devAddr d.pg d.col) v, col := d.col + 1 } := by
  simp [dataByte, store, advance, hp, show d.col < devCols chip by omega, hm, hc]

/-- The memory after `n` bytes written from column `col` on of page `pg`. -/
def writeRun (pg col : Nat) (bs : List Byte) (ram : Memory) : Memory :=
  (List.range bs.length).foldl (fun m k => m.write (devAddr pg (col + k)) (bs.getD k 0)) ram

theorem writeRun_append (pg col : Nat) (bs : List Byte) (v : Byte) (ram : Memory) :
    writeRun pg col (bs ++ [v]) ram = (writeRun pg col bs ram).write (devAddr pg (col + bs.length)) v := by
  unfold writeRun
  rw [List.length_append, List.length_singleton, List.range_succ, List.foldl_append, List.foldl_cons, List.foldl_nil]
  have hlast : (bs ++ [v]).getD bs.length 0 = v := by simp
  rw [hlast]
  congr 1
  have : ∀ (ks : List Nat) (m : Memory), (∀ k ∈ ks, k < bs.length) →
      ks.foldl (fun m k => m.write (devAddr pg (col + k)) ((bs ++ [v]).getD k 0)) m =
        ks.foldl (fun m k => m.write (devAddr pg (col + k)) (bs.getD k 0)) m := by
    intro ks
    induction ks with
    | nil => intro m _; rfl
    | cons k ks ih =>
      intro m hk
      have hkb : (bs ++ [v]).getD k 0 = bs.getD k 0 := by
        simp [List.getD_eq_getElem?_getD, List.getElem?_append_left (hk k (by simp))]
      simp only [List.foldl_cons, hkb]
      exact ih _ fun j hj => hk j (by simp [hj])
  exact this _ _ fun k hk => List.mem_range.mp hk

/-- What the device's memory reads after a run of bytes: the run where it went, the old bytes elsewhere. -/
theorem devByte_writeRun (pg col : Nat) (bs : List Byte) (ram : Memory) {p c : Nat} (hend : col + bs.length ≤ 256)
    (hc : c < 256) :
    devByte (writeRun pg col bs ram) p c =
      if p = pg ∧ col ≤ c ∧ c < col + bs.length then bs.getD (c - col) 0 else devByte ram p c := by
  induction bs using List.reverseRecOn with
  | nil => rw [if_neg (by simp)]; rfl
  | append_singleton bs v ih =>
    rw [List.length_append, List.length_singleton] at hend
    rw [writeRun_append, devByte_write, List.length_append, List.length_singleton, ih (by omega)]
    simp only [devAddr_inj hc (show col + bs.length < 256 by omega)]
    by_cases h1 : p = pg ∧ c = col + bs.length
    · rw [if_pos h1, if_pos ⟨h1.1, by omega, by omega⟩, h1.2]
      simp
    · rw [if_neg h1]
      by_cases h2 : p = pg ∧ col ≤ c ∧ c < col + bs.length
      · rw [if_pos h2, if_pos ⟨h2.1, h2.2.1, by omega⟩]
        simp [List.getD_eq_getElem?_getD, List.getElem?_append_left (show c - col < bs.length by omega)]
      · rw [if_neg h2, if_neg (by omega)]

/-- A run of data bytes in page mode, short of the last column (R82). -/
theorem takeData_page {chip : Chip} {d : Dev} (bs : List Byte) (hm : d.mode = .page) (hp : d.pg < 8)
    (hc : d.col + bs.length < devCols chip) :
    d.takeData chip bs = { d with ram := writeRun d.pg d.col bs d.ram, col := d.col + bs.length } := by
  induction bs using List.reverseRecOn with
  | nil => rfl
  | append_singleton bs v ih =>
    rw [List.length_append, List.length_singleton] at hc
    have e : d.takeData chip (bs ++ [v]) = (d.takeData chip bs).dataByte chip v := by simp [takeData]
    rw [e, ih (by omega)]
    refine (dataByte_inPage v ?_ ?_ ?_).trans ?_
    all_goals simp only
    all_goals first | assumption | omega | (rw [writeRun_append]; simp [Nat.add_assoc])

/-- A run of data bytes inside one row of the horizontal range (R81). -/
theorem takeData_inRow {chip : Chip} {d : Dev} (bs : List Byte) (hm : d.mode = .horizontal) (hp : d.pg < 8)
    (he : d.colEnd < devCols chip) (hc : d.col + bs.length ≤ d.colEnd) :
    d.takeData chip bs = { d with ram := writeRun d.pg d.col bs d.ram, col := d.col + bs.length } := by
  induction bs using List.reverseRecOn with
  | nil => rfl
  | append_singleton bs v ih =>
    rw [List.length_append, List.length_singleton] at hc
    have e : d.takeData chip (bs ++ [v]) = (d.takeData chip bs).dataByte chip v := by simp [takeData]
    rw [e, ih (by omega)]
    refine (dataByte_inRow v ?_ ?_ ?_ ?_).trans ?_
    all_goals simp only
    all_goals first | assumption | omega | (rw [writeRun_append]; simp [Nat.add_assoc])

/-- A whole row of the horizontal range: the pointer goes to the next page of the range, or back to its first (R81). -/
theorem takeData_row {chip : Chip} {d : Dev} (bs : List Byte) (v : Byte) (hm : d.mode = .horizontal) (hp : d.pg < 8)
    (he : d.colEnd < devCols chip) (hc : d.col + bs.length = d.colEnd) :
    d.takeData chip (bs ++ [v]) = { d with
      ram := writeRun d.pg d.col (bs ++ [v]) d.ram, col := d.colStart,
      pg := if d.pg < d.pgEnd then d.pg + 1 else d.pgStart } := by
  have e : d.takeData chip (bs ++ [v]) = (d.takeData chip bs).dataByte chip v := by simp [takeData]
  rw [e, takeData_inRow bs hm hp he (by omega)]
  refine (dataByte_endRow v ?_ ?_ ?_ ?_).trans ?_
  all_goals simp only
  all_goals first | assumption | omega | rw [writeRun_append]

/-! ### Failed data messages (R84) -/

@[simp] theorem freeBytes_length (a n : Nat) : (freeBytes a n).length = n := by simp [freeBytes]

theorem freeBytes_succ (a n : Nat) : freeBytes a (n + 1) = freeBytes a n ++ [Config.deviceByte (a + n)] := by
  simp [freeBytes, List.range_succ]

/-- A failed data message that would have filled the rest of a row of the horizontal range loses that rest and the
pointer, and nothing else. -/
theorem loseData_row {chip : Chip} {d : Dev} (bs : List Byte) (hm : d.mode = .horizontal) (hp : d.pg < 8)
    (he : d.colEnd < devCols chip) (hc : d.col + bs.length = d.colEnd + 1) (hs : 0 < bs.length) :
    ∃ pg col n, pg < 8 ∧ col < devCols chip ∧ d.loseData chip bs =
      { d with ram := writeRun d.pg d.col (freeBytes d.drawn bs.length) d.ram, pg := pg, col := col, drawn := n } := by
  obtain ⟨n, hn⟩ : ∃ n, bs.length = n + 1 := ⟨bs.length - 1, by omega⟩
  refine ⟨_, _, d.drawn + bs.length + 2, freePage_lt (d.drawn + bs.length), freeCol_lt chip (d.drawn + bs.length + 1),
    ?_⟩
  unfold loseData
  rw [hn, freeBytes_succ]
  rw [takeData_row (d := { d with drawn := d.drawn + (n + 1) }) _ _ hm hp he (by simp only [freeBytes_length]; omega)]
  rfl

/-- A failed data message in page mode, short of the last column, loses the bytes it would have written and the pointer,
and nothing else. -/
theorem loseData_page {chip : Chip} {d : Dev} (bs : List Byte) (hm : d.mode = .page) (hp : d.pg < 8)
    (hc : d.col + bs.length < devCols chip) :
    ∃ pg col n, pg < 8 ∧ col < devCols chip ∧ d.loseData chip bs =
      { d with ram := writeRun d.pg d.col (freeBytes d.drawn bs.length) d.ram, pg := pg, col := col, drawn := n } := by
  refine ⟨_, _, d.drawn + bs.length + 2, freePage_lt (d.drawn + bs.length), freeCol_lt chip (d.drawn + bs.length + 1),
    ?_⟩
  unfold loseData
  rw [takeData_page (d := { d with drawn := d.drawn + bs.length }) _ hm hp (by simpa using hc)]
  rfl

end Dev

end Sys2Proof.Machine
end

