-- ==== Sys2Proof/Laws/Encoding.lean ====
section
/-! SUPPORT. The request word: its bytes, and each field of a packed word (R61, R90). -/

namespace Sys2Proof

/-- Sixteen bytes, least significant first, are the word they were taken from (R61). -/
theorem requestOfBytes_bytesOfRequest (w : Request) : requestOfBytes (bytesOfRequest w) = w := by
  apply BitVec.eq_of_toNat_eq
  have hw := w.isLt
  simp only [requestOfBytes, bytesOfRequest, BitVec.toNat_ofNat]
  simp only [show List.range 16 = [0, 1, 2, 3, 4, 5, 6, 7, 8, 9, 10, 11, 12, 13, 14, 15] from rfl, List.map, List.foldr,
    BitVec.extractLsb'_toNat, Nat.shiftRight_eq_div_pow]
  generalize w.toNat = n at *
  norm_num
  omega

@[simp] theorem bytesOfRequest_length (w : Request) : (bytesOfRequest w).length = 16 := by simp [bytesOfRequest]

section Pack

variable (op : BitVec 5) (color : Bool) (ch : BitVec 8) (x y w h : BitVec 16) (ptr : BitVec 32)

theorem packRequest_toNat :
    (packRequest op color ch x y w h ptr).toNat = op.toNat + 2 ^ 7 * color.toNat + 2 ^ 8 * ch.toNat +
      2 ^ 16 * x.toNat + 2 ^ 32 * y.toNat + 2 ^ 48 * w.toNat + 2 ^ 64 * h.toNat + 2 ^ 80 * ptr.toNat := by
  have := op.isLt; have := ch.isLt; have := x.isLt; have := y.isLt; have := w.isLt; have := h.isLt; have := ptr.isLt
  have : color.toNat < 2 := by cases color <;> decide
  simp only [packRequest, BitVec.toNat_ofNat]
  apply Nat.mod_eq_of_lt
  omega

@[simp] theorem reqOp_packRequest : reqOp (packRequest op color ch x y w h ptr) = op := by
  have := op.isLt
  apply BitVec.eq_of_toNat_eq
  simp only [reqOp, BitVec.extractLsb'_toNat, packRequest_toNat, Nat.shiftRight_eq_div_pow]
  omega

@[simp] theorem reqColor_packRequest : reqColor (packRequest op color ch x y w h ptr) = color := by
  have := op.isLt
  unfold reqColor
  rw [← BitVec.testBit_toNat, packRequest_toNat, Nat.testBit_eq_decide_div_mod_eq]
  cases color <;> simp <;> omega

@[simp] theorem reqCh_packRequest : reqCh (packRequest op color ch x y w h ptr) = ch := by
  have := op.isLt; have := ch.isLt
  have : color.toNat < 2 := by cases color <;> decide
  apply BitVec.eq_of_toNat_eq
  simp only [reqCh, BitVec.extractLsb'_toNat, packRequest_toNat, Nat.shiftRight_eq_div_pow]
  omega

@[simp] theorem reqX_packRequest : reqX (packRequest op color ch x y w h ptr) = x := by
  have := op.isLt; have := ch.isLt; have := x.isLt
  have : color.toNat < 2 := by cases color <;> decide
  apply BitVec.eq_of_toNat_eq
  simp only [reqX, BitVec.extractLsb'_toNat, packRequest_toNat, Nat.shiftRight_eq_div_pow]
  omega

@[simp] theorem reqY_packRequest : reqY (packRequest op color ch x y w h ptr) = y := by
  have := op.isLt; have := ch.isLt; have := x.isLt; have := y.isLt
  have : color.toNat < 2 := by cases color <;> decide
  apply BitVec.eq_of_toNat_eq
  simp only [reqY, BitVec.extractLsb'_toNat, packRequest_toNat, Nat.shiftRight_eq_div_pow]
  omega

@[simp] theorem reqW_packRequest : reqW (packRequest op color ch x y w h ptr) = w := by
  have := op.isLt; have := ch.isLt; have := x.isLt; have := y.isLt; have := w.isLt
  have : color.toNat < 2 := by cases color <;> decide
  apply BitVec.eq_of_toNat_eq
  simp only [reqW, BitVec.extractLsb'_toNat, packRequest_toNat, Nat.shiftRight_eq_div_pow]
  omega

@[simp] theorem reqH_packRequest : reqH (packRequest op color ch x y w h ptr) = h := by
  have := op.isLt; have := ch.isLt; have := x.isLt; have := y.isLt; have := w.isLt; have := h.isLt
  have : color.toNat < 2 := by cases color <;> decide
  apply BitVec.eq_of_toNat_eq
  simp only [reqH, BitVec.extractLsb'_toNat, packRequest_toNat, Nat.shiftRight_eq_div_pow]
  omega

@[simp] theorem reqPtr_packRequest : reqPtr (packRequest op color ch x y w h ptr) = ptr := by
  have := op.isLt; have := ch.isLt; have := x.isLt; have := y.isLt; have := w.isLt; have := h.isLt; have := ptr.isLt
  have : color.toNat < 2 := by cases color <;> decide
  apply BitVec.eq_of_toNat_eq
  simp only [reqPtr, BitVec.extractLsb'_toNat, packRequest_toNat, Nat.shiftRight_eq_div_pow]
  omega

end Pack

end Sys2Proof
end

