-- ==== Sys2Proof/Laws/Pixel.lean ====
section
/-! SUPPORT. The pixel-address generator and `setPixel`: when it stores, where, and what every pixel and every byte reads
afterwards; and the same for a loop of `setPixel` calls. -/

namespace Sys2Proof.Machine

/-! ### Geometry -/

theorem height_cases (h64 : Bool) : height h64 = 32 ∨ height h64 = 64 := by cases h64 <;> simp [height]

theorem height_eq_pages (h64 : Bool) : height h64 = 8 * pages h64 := by cases h64 <;> rfl

theorem fbSize_eq (h64 : Bool) : fbSize h64 = 128 * pages h64 := by cases h64 <;> rfl

theorem fbAddr_lt {h64 : Bool} {p c : Nat} (hp : p < pages h64) (hc : c < 128) : fbAddr p c < fbSize h64 := by
  rw [fbSize_eq]; unfold fbAddr Config.width; omega

theorem fbAddr_inj {p q c d : Nat} (hc : c < 128) (hd : d < 128) : fbAddr p c = fbAddr q d ↔ p = q ∧ c = d := by
  unfold fbAddr Config.width; omega

/-! ### `PAG` -/

theorem pag_on {h64 : Bool} {px py : Nat} (hx : px < 128) (hy : py < height h64) :
    pag h64 (px : Int) (py : Int) = some { page := py / 8, col := px, bit := py % 8 } := by
  unfold pag Config.width
  rw [if_pos (by omega)]
  simp

theorem pag_off {h64 : Bool} {x y : Int} (h : ¬ (0 ≤ x ∧ x < 128 ∧ 0 ≤ y ∧ y < height h64)) : pag h64 x y = none := by
  unfold pag Config.width
  rw [if_neg (by simpa using h)]

/-- Either the position is off the display, or it is a display pixel. -/
theorem pag_cases (h64 : Bool) (x y : Int) :
    pag h64 x y = none ∨ ∃ px py : Nat, px < 128 ∧ py < height h64 ∧ x = px ∧ y = py := by
  by_cases h : 0 ≤ x ∧ x < 128 ∧ 0 ≤ y ∧ y < height h64
  · exact .inr ⟨x.toNat, y.toNat, by omega, by omega, by omega, by omega⟩
  · exact .inl (pag_off h)

theorem pag_page_lt {h64 : Bool} {x y : Int} {p : PixelPos} (h : pag h64 x y = some p) :
    p.page < pages h64 ∧ p.col < 128 ∧ p.bit < 8 := by
  unfold pag Config.width at h
  split at h
  · cases h
    have := height_eq_pages h64
    refine ⟨?_, ?_, ?_⟩ <;> simp <;> omega
  · cases h

theorem pixelAddr_on {h64 : Bool} {px py : Nat} (hx : px < 128) (hy : py < height h64) :
    pixelAddr h64 (px : Int) (py : Int) = some (fbAddr (py / 8) px) := by
  simp [pixelAddr, pag_on hx hy]

/-! ### `plotBit` -/

theorem plotBit_getLsbD (old : Byte) (bit k : Nat) (color : Bool) (hb : bit < 8) (hk : k < 8) :
    (plotBit old bit color).getLsbD k = if k = bit then color else old.getLsbD k := by
  cases color <;> simp only [plotBit]
  · simp only [Bool.false_eq_true, if_false, BitVec.getLsbD_and, BitVec.getLsbD_not, BitVec.getLsbD_shiftLeft,
      BitVec.getLsbD_one]
    by_cases h : k = bit
    · subst h; simp [hk]
    · by_cases h2 : k < bit
      · simp [h, h2, hk]
      · have : ¬ k - bit = 0 := by omega
        simp [h, h2, hk, this]
  · simp only [if_true, BitVec.getLsbD_or, BitVec.getLsbD_shiftLeft, BitVec.getLsbD_one]
    by_cases h : k = bit
    · subst h; simp [hk]
    · by_cases h2 : k < bit
      · simp [h, h2, hk]
      · have : ¬ k - bit = 0 := by omega
        simp [h, h2, hk, this]

/-! ### `setPixel` -/

theorem setPixel_on {h64 : Bool} {px py : Nat} (hx : px < 128) (hy : py < height h64) (color : Bool) (fb : Memory) :
    setPixel h64 (px : Int) (py : Int) color fb =
      fb.write (fbAddr (py / 8) px) (plotBit (fbByte fb (py / 8) px) (py % 8) color) := by
  simp [setPixel, pag_on hx hy]

theorem setPixel_off {h64 : Bool} {x y : Int} (h : pag h64 x y = none) (color : Bool) (fb : Memory) :
    setPixel h64 x y color fb = fb := by
  simp [setPixel, h]

theorem setPixel_wf (h64 : Bool) (x y : Int) (color : Bool) (fb : Memory) (h : fb.wf = true) :
    (setPixel h64 x y color fb).wf = true := by
  unfold setPixel; split
  · exact Memory.wf_write _ _ _ h
  · exact h

theorem setPixel_below (h64 : Bool) (x y : Int) (color : Bool) (fb : Memory) (h : fb.below (fbSize h64) = true) :
    (setPixel h64 x y color fb).below (fbSize h64) = true := by
  unfold setPixel; split
  next p hp =>
    have := pag_page_lt hp
    exact Memory.below_write _ _ _ (fbAddr_lt this.1 this.2.1) h
  next => exact h

/-- A byte `setPixel` does not store to reads as before. -/
theorem fbRead_setPixel_other (h64 : Bool) (x y : Int) (color : Bool) (fb : Memory) {a : Nat}
    (h : pixelAddr h64 x y ≠ some a) : fbRead (setPixel h64 x y color fb) a = fbRead fb a := by
  unfold setPixel
  unfold pixelAddr at h
  split
  next p hp => rw [hp] at h; rw [fbRead_write, if_neg]; intro e; exact h (by rw [e])
  next => rfl

/-- What every display pixel reads after `setPixel`: the colour at (x, y), the old bit elsewhere. -/
theorem fbPixel_setPixel (h64 : Bool) (x y : Int) (color : Bool) (fb : Memory) {px py : Nat} (hx : px < 128)
    (hy : py < height h64) :
    fbPixel (setPixel h64 x y color fb) px py = if x = px ∧ y = py then color else fbPixel fb px py := by
  rcases pag_cases h64 x y with hn | ⟨qx, qy, hqx, hqy, rfl, rfl⟩
  · rw [setPixel_off hn, if_neg]
    rintro ⟨rfl, rfl⟩
    rw [pag_on hx hy] at hn
    cases hn
  · rw [setPixel_on hqx hqy]
    simp only [fbPixel, fbByte, fbRead_write, fbAddr_inj hx hqx, Nat.cast_inj]
    by_cases h : py / 8 = qy / 8 ∧ px = qx
    · obtain ⟨h1, rfl⟩ := h
      rw [if_pos ⟨h1, rfl⟩, plotBit_getLsbD _ _ _ _ (by omega) (by omega), ← h1]
      by_cases h2 : py % 8 = qy % 8
      · have : qy = py := by omega
        subst this; simp
      · have : qy ≠ py := fun e => h2 (by rw [e])
        simp [h2, this]
    · rw [if_neg h, if_neg]
      rintro ⟨rfl, rfl⟩
      exact h ⟨rfl, rfl⟩

/-! ### Loops of `setPixel` -/

theorem forUp_setPixel_wf (h64 : Bool) (fx fy : Nat → Int) (col : Nat → Bool) (n : Nat) (fb : Memory)
    (h : fb.wf = true) : (forUp n (fun i fb => setPixel h64 (fx i) (fy i) (col i) fb) fb).wf = true :=
  forUp_keeps (fun fb => Memory.wf fb = true) _ n fb h fun _ b _ hb => setPixel_wf h64 _ _ _ b hb

theorem forUp_setPixel_below (h64 : Bool) (fx fy : Nat → Int) (col : Nat → Bool) (n : Nat) (fb : Memory)
    (h : fb.below (fbSize h64) = true) :
    (forUp n (fun i fb => setPixel h64 (fx i) (fy i) (col i) fb) fb).below (fbSize h64) = true :=
  forUp_keeps (fun fb => Memory.below (fbSize h64) fb = true) _ n fb h fun _ b _ hb => setPixel_below h64 _ _ _ b hb

/-- A pixel no call of the loop touches keeps its bit. -/
theorem fbPixel_forUp_miss (h64 : Bool) (fx fy : Nat → Int) (col : Nat → Bool) (n : Nat) (fb : Memory) {px py : Nat}
    (hx : px < 128) (hy : py < height h64) (hmiss : ∀ i, i < n → ¬ (fx i = px ∧ fy i = py)) :
    fbPixel (forUp n (fun i fb => setPixel h64 (fx i) (fy i) (col i) fb) fb) px py = fbPixel fb px py := by
  induction n with
  | zero => rfl
  | succ n ih =>
    rw [forUp_succ, fbPixel_setPixel h64 _ _ _ _ hx hy, if_neg (hmiss n (Nat.lt_succ_self n))]
    exact ih fun i hi => hmiss i (Nat.lt_succ_of_lt hi)

/-- A pixel some call touches, every call that touches it carrying the same colour, ends with that colour. -/
theorem fbPixel_forUp_hit (h64 : Bool) (fx fy : Nat → Int) (col : Nat → Bool) (n : Nat) (fb : Memory) {px py : Nat}
    (hx : px < 128) (hy : py < height h64) {i : Nat} (hi : i < n) (hit : fx i = px ∧ fy i = py)
    (hsame : ∀ j, j < n → fx j = px ∧ fy j = py → col j = col i) :
    fbPixel (forUp n (fun i fb => setPixel h64 (fx i) (fy i) (col i) fb) fb) px py = col i := by
  induction n with
  | zero => omega
  | succ n ih =>
    rw [forUp_succ, fbPixel_setPixel h64 _ _ _ _ hx hy]
    split
    next h => exact hsame n (Nat.lt_succ_self n) h
    next h =>
      have hne : i ≠ n := fun e => h (e ▸ hit)
      exact ih (by omega) fun j hj => hsame j (Nat.lt_succ_of_lt hj)

/-- A byte no call of the loop stores to reads as before. -/
theorem fbRead_forUp_other (h64 : Bool) (fx fy : Nat → Int) (col : Nat → Bool) (n : Nat) (fb : Memory) {a : Nat}
    (h : ∀ i, i < n → pixelAddr h64 (fx i) (fy i) ≠ some a) :
    fbRead (forUp n (fun i fb => setPixel h64 (fx i) (fy i) (col i) fb) fb) a = fbRead fb a := by
  induction n with
  | zero => rfl
  | succ n ih =>
    rw [forUp_succ, fbRead_setPixel_other h64 _ _ _ _ (h n (Nat.lt_succ_self n))]
    exact ih fun i hi => h i (Nat.lt_succ_of_lt hi)

/-! ### Equal framebuffers -/

/-- A byte outside `FB` is never stored to (R65). -/
theorem fbRead_setPixel_outside (h64 : Bool) (x y : Int) (color : Bool) (fb : Memory) {a : Nat} (ha : fbSize h64 ≤ a) :
    fbRead (setPixel h64 x y color fb) a = fbRead fb a := by
  apply fbRead_setPixel_other
  rcases pag_cases h64 x y with h | ⟨px, py, hx, hy, rfl, rfl⟩
  · simp [pixelAddr, h]
  · rw [pixelAddr_on hx hy]
    have := fbAddr_lt (h64 := h64) (p := py / 8) (c := px) (by have := height_eq_pages h64; omega) hx
    simp; omega

/-- Two framebuffers whose display pixels agree, and whose bytes outside `FB` agree, read alike everywhere (R21). -/
theorem fbRead_ext_of_pixels (h64 : Bool) (f g : Memory)
    (hpix : ∀ px py, px < 128 → py < height h64 → fbPixel f px py = fbPixel g px py)
    (hout : ∀ a, fbSize h64 ≤ a → fbRead f a = fbRead g a) (a : Nat) : fbRead f a = fbRead g a := by
  by_cases ha : a < fbSize h64
  · apply BitVec.eq_of_getLsbD_eq
    intro i hi
    rw [fbSize_eq] at ha
    have := hpix (a % 128) (8 * (a / 128) + i) (by omega) (by rw [height_eq_pages]; omega)
    unfold fbPixel fbByte fbAddr Config.width at this
    rwa [show (8 * (a / 128) + i) / 8 = a / 128 by omega, show (8 * (a / 128) + i) % 8 = i by omega,
      show a / 128 * 128 + a % 128 = a by omega] at this
  · exact hout a (by omega)

end Sys2Proof.Machine
end

