-- ==== Sys2Proof/Laws/Raster.lean ====
section
/-! SUPPORT. The shared drawing primitives: what every pixel and every byte reads after a line and after a blit, and that
each keeps the framebuffer canonical and inside its space. -/

namespace Sys2Proof.Machine

/-- Clipping is a minimum (R164, R168). -/
theorem clipLength_eq_min (start len dim : Int) : clipLength start len dim = min len (dim - start) := by
  unfold clipLength; split <;> omega

/-! ### Nested loops -/

/-- A pixel no call of a loop in a loop touches keeps its bit. -/
theorem fbPixel_forUp2_miss (h64 : Bool) (fx fy : Nat → Nat → Int) (col : Nat → Nat → Bool) (m n : Nat) (fb : Memory)
    {px py : Nat} (hx : px < 128) (hy : py < height h64)
    (hmiss : ∀ i j, i < m → j < n → ¬ (fx i j = px ∧ fy i j = py)) :
    fbPixel (forUp m (fun i fb => forUp n (fun j fb => setPixel h64 (fx i j) (fy i j) (col i j) fb) fb) fb) px py =
      fbPixel fb px py := by
  induction m with
  | zero => rfl
  | succ m ih =>
    rw [forUp_succ, fbPixel_forUp_miss h64 _ _ _ n _ hx hy fun j hj => hmiss m j (Nat.lt_succ_self m) hj]
    exact ih fun i j hi hj => hmiss i j (Nat.lt_succ_of_lt hi) hj

/-- A pixel some call of a loop in a loop touches ends with that call's colour, if all that touch it agree. -/
theorem fbPixel_forUp2_hit (h64 : Bool) (fx fy : Nat → Nat → Int) (col : Nat → Nat → Bool) (m n : Nat) (fb : Memory)
    {px py : Nat} (hx : px < 128) (hy : py < height h64) {i j : Nat} (hi : i < m) (hj : j < n)
    (hit : fx i j = px ∧ fy i j = py)
    (hsame : ∀ i' j', i' < m → j' < n → fx i' j' = px ∧ fy i' j' = py → col i' j' = col i j) :
    fbPixel (forUp m (fun i fb => forUp n (fun j fb => setPixel h64 (fx i j) (fy i j) (col i j) fb) fb) fb) px py =
      col i j := by
  induction m with
  | zero => omega
  | succ m ih =>
    rw [forUp_succ]
    by_cases h : ∃ k, k < n ∧ fx m k = px ∧ fy m k = py
    · obtain ⟨k, hk, hkit⟩ := h
      have e := hsame m k (Nat.lt_succ_self m) hk hkit
      rw [← e]
      exact fbPixel_forUp_hit h64 _ _ _ n _ hx hy hk hkit fun l hl hlit =>
        (hsame m l (Nat.lt_succ_self m) hl hlit).trans e.symm
    · rw [fbPixel_forUp_miss h64 _ _ _ n _ hx hy fun k hk hkit => h ⟨k, hk, hkit⟩]
      have hne : i ≠ m := fun e => h ⟨j, hj, e ▸ hit⟩
      exact ih (by omega) fun i' j' hi' => hsame i' j' (Nat.lt_succ_of_lt hi')

/-- A byte no call of a loop in a loop stores to reads as before. -/
theorem fbRead_forUp2_other (h64 : Bool) (fx fy : Nat → Nat → Int) (col : Nat → Nat → Bool) (m n : Nat) (fb : Memory)
    {a : Nat} (h : ∀ i j, i < m → j < n → pixelAddr h64 (fx i j) (fy i j) ≠ some a) :
    fbRead (forUp m (fun i fb => forUp n (fun j fb => setPixel h64 (fx i j) (fy i j) (col i j) fb) fb) fb) a =
      fbRead fb a := by
  induction m with
  | zero => rfl
  | succ m ih =>
    rw [forUp_succ, fbRead_forUp_other h64 _ _ _ n _ fun j hj => h m j (Nat.lt_succ_self m) hj]
    exact ih fun i j hi hj => h i j (Nat.lt_succ_of_lt hi) hj

/-- A property every `setPixel` call keeps holds after a loop in a loop of them. -/
theorem forUp2_setPixel_keeps (P : Memory → Prop) (h64 : Bool) (fx fy : Nat → Nat → Int) (col : Nat → Nat → Bool)
    (m n : Nat) (fb : Memory) (hP : ∀ x y c fb, P fb → P (setPixel h64 x y c fb)) (h : P fb) :
    P (forUp m (fun i fb => forUp n (fun j fb => setPixel h64 (fx i j) (fy i j) (col i j) fb) fb) fb) :=
  forUp_keeps P _ m fb h fun _ b _ hb => forUp_keeps P _ n b hb fun _ b' _ hb' => hP _ _ _ b' hb'

/-! ### Lines -/

theorem fbPixel_hLine (h64 : Bool) (x y : Int) (len : Nat) (color : Bool) (fb : Memory) {px py : Nat} (hx : px < 128)
    (hy : py < height h64) :
    fbPixel (hLine h64 x y len color fb) px py =
      if y = py ∧ max x 0 ≤ px ∧ (px : Int) < min (x + len) 128 then color else fbPixel fb px py := by
  unfold hLine Config.width
  rw [clipLength_eq_min]
  by_cases hrow : y < 0 ∨ (height h64 : Int) ≤ y
  · rw [if_pos hrow, if_neg (by omega)]
  · rw [if_neg hrow]
    by_cases hlen : min (len : Int) ((128 : Nat) - x) ≤ 0
    · rw [if_pos hlen, if_neg (by omega)]
    · rw [if_neg hlen]
      by_cases hit : y = py ∧ max x 0 ≤ px ∧ (px : Int) < min (x + len) 128
      · rw [if_pos hit]
        exact fbPixel_forUp_hit h64 (fun i => x + i) (fun _ => y) (fun _ => color) _ fb hx hy
          (i := ((px : Int) - x).toNat) (by omega) ⟨by omega, by omega⟩ fun _ _ _ => rfl
      · rw [if_neg hit]
        exact fbPixel_forUp_miss h64 (fun i => x + i) (fun _ => y) (fun _ => color) _ fb hx hy (by omega)

theorem fbRead_hLine_other (h64 : Bool) (x y : Int) (len : Nat) (color : Bool) (fb : Memory) {a : Nat}
    (h : ∀ i < len, pixelAddr h64 (x + i) y ≠ some a) : fbRead (hLine h64 x y len color fb) a = fbRead fb a := by
  unfold hLine
  rw [clipLength_eq_min]
  split
  · rfl
  · split
    · rfl
    · exact fbRead_forUp_other h64 (fun i => x + i) (fun _ => y) (fun _ => color) _ fb fun i hi => h i (by omega)

theorem fbPixel_vLine (h64 : Bool) (x y : Int) (len : Nat) (color : Bool) (fb : Memory) {px py : Nat} (hx : px < 128)
    (hy : py < height h64) :
    fbPixel (vLine h64 x y len color fb) px py =
      if x = px ∧ max y 0 ≤ py ∧ (py : Int) < min (y + len) (height h64) then color else fbPixel fb px py := by
  unfold vLine Config.width
  rw [clipLength_eq_min]
  by_cases hcol : x < 0 ∨ ((128 : Nat) : Int) ≤ x
  · rw [if_pos hcol, if_neg (by omega)]
  · rw [if_neg hcol]
    by_cases hlen : min (len : Int) (height h64 - y) ≤ 0
    · rw [if_pos hlen, if_neg (by omega)]
    · rw [if_neg hlen]
      by_cases hit : x = px ∧ max y 0 ≤ py ∧ (py : Int) < min (y + len) (height h64)
      · rw [if_pos hit]
        exact fbPixel_forUp_hit h64 (fun _ => x) (fun i => y + i) (fun _ => color) _ fb hx hy
          (i := ((py : Int) - y).toNat) (by omega) ⟨by omega, by omega⟩ fun _ _ _ => rfl
      · rw [if_neg hit]
        exact fbPixel_forUp_miss h64 (fun _ => x) (fun i => y + i) (fun _ => color) _ fb hx hy (by omega)

theorem fbRead_vLine_other (h64 : Bool) (x y : Int) (len : Nat) (color : Bool) (fb : Memory) {a : Nat}
    (h : ∀ i < len, pixelAddr h64 x (y + i) ≠ some a) : fbRead (vLine h64 x y len color fb) a = fbRead fb a := by
  unfold vLine
  rw [clipLength_eq_min]
  split
  · rfl
  · split
    · rfl
    · exact fbRead_forUp_other h64 (fun _ => x) (fun i => y + i) (fun _ => color) _ fb fun i hi => h i (by omega)

/-- A property every `setPixel` call keeps holds after a horizontal line. -/
theorem hLine_keeps (P : Memory → Prop) (h64 : Bool) (x y : Int) (len : Nat) (color : Bool) (fb : Memory)
    (hP : ∀ x y c fb, P fb → P (setPixel h64 x y c fb)) (h : P fb) : P (hLine h64 x y len color fb) := by
  unfold hLine
  split
  · exact h
  · split
    · exact h
    · exact forUp_keeps P _ _ fb h fun _ b _ hb => hP _ _ _ b hb

/-- A property every `setPixel` call keeps holds after a vertical line. -/
theorem vLine_keeps (P : Memory → Prop) (h64 : Bool) (x y : Int) (len : Nat) (color : Bool) (fb : Memory)
    (hP : ∀ x y c fb, P fb → P (setPixel h64 x y c fb)) (h : P fb) : P (vLine h64 x y len color fb) := by
  unfold vLine
  split
  · exact h
  · split
    · exact h
    · exact forUp_keeps P _ _ fb h fun _ b _ hb => hP _ _ _ b hb

/-- A property every `setPixel` call keeps holds after a rectangle. -/
theorem drawRect_keeps (P : Memory → Prop) (h64 : Bool) (x y : Int) (w h : Nat) (color : Bool) (fb : Memory)
    (hP : ∀ x y c fb, P fb → P (setPixel h64 x y c fb)) (hfb : P fb) : P (drawRect h64 x y w h color fb) := by
  unfold drawRect
  split
  · exact hfb
  · exact vLine_keeps P _ _ _ _ _ _ hP (vLine_keeps P _ _ _ _ _ _ hP (hLine_keeps P _ _ _ _ _ _ hP
      (hLine_keeps P _ _ _ _ _ _ hP hfb)))

/-- A property every `setPixel` call keeps holds after a bitmap. -/
theorem drawBitmap_keeps (P : Memory → Prop) (h64 : Bool) (src : Memory) (ptr : BitVec 32) (x y : Int) (w h : Nat)
    (fb : Memory) (hP : ∀ x y c fb, P fb → P (setPixel h64 x y c fb)) (hfb : P fb) :
    P (drawBitmap h64 src ptr x y w h fb) :=
  forUp2_setPixel_keeps P h64 (fun _ col => x + (col : Int)) (fun row _ => y + (row : Int))
    (fun row col => bitmapBit src ptr w col row) h w fb hP hfb

/-! ### `Blit` -/

/-- With opaque glyphs, a blit is a loop in a loop of `setPixel` (R187). -/
theorem blit_eq (h64 : Bool) (x y : Int) (cols : List Byte) (n : Nat) (fb : Memory) :
    blit h64 x y cols n fb =
      forUp n (fun col fb => forUp 8 (fun row fb =>
        setPixel h64 (x + (col : Int)) (y + (row : Int)) ((cols.getD col 0).getLsbD row) fb) fb) fb := by
  simp only [blit, glyphOpaque, Bool.true_or, if_true]

theorem fbPixel_blit (h64 : Bool) (x y : Int) (cols : List Byte) (n : Nat) (fb : Memory) {px py : Nat} (hx : px < 128)
    (hy : py < height h64) :
    fbPixel (blit h64 x y cols n fb) px py =
      if x ≤ px ∧ (px : Int) < x + n ∧ y ≤ py ∧ (py : Int) < y + 8 then
        (cols.getD ((px : Int) - x).toNat 0).getLsbD ((py : Int) - y).toNat
      else fbPixel fb px py := by
  rw [blit_eq]
  split
  next h =>
    refine fbPixel_forUp2_hit h64 (fun col _ => x + (col : Int)) (fun _ row => y + (row : Int))
      (fun col row => (cols.getD col 0).getLsbD row) n 8 fb hx hy (i := ((px : Int) - x).toNat)
      (j := ((py : Int) - y).toNat) (by omega) (by omega) ⟨by omega, by omega⟩ ?_
    intro i j _ _ hij
    rw [show i = ((px : Int) - x).toNat by omega, show j = ((py : Int) - y).toNat by omega]
  next h =>
    exact fbPixel_forUp2_miss h64 (fun col _ => x + (col : Int)) (fun _ row => y + (row : Int)) _ n 8 fb hx hy
      (by omega)

theorem fbRead_blit_other (h64 : Bool) (x y : Int) (cols : List Byte) (n : Nat) (fb : Memory) {a : Nat}
    (h : ∀ col row : Nat, col < n → row < 8 → pixelAddr h64 (x + col) (y + row) ≠ some a) :
    fbRead (blit h64 x y cols n fb) a = fbRead fb a := by
  rw [blit_eq]
  exact fbRead_forUp2_other h64 (fun col _ => x + (col : Int)) (fun _ row => y + (row : Int)) _ n 8 fb h

/-- A property every `setPixel` call keeps holds after a blit. -/
theorem blit_keeps (P : Memory → Prop) (h64 : Bool) (x y : Int) (cols : List Byte) (n : Nat) (fb : Memory)
    (hP : ∀ x y c fb, P fb → P (setPixel h64 x y c fb)) (hfb : P fb) : P (blit h64 x y cols n fb) := by
  rw [blit_eq]
  exact forUp2_setPixel_keeps P h64 (fun col _ => x + (col : Int)) (fun _ row => y + (row : Int))
    (fun col row => (cols.getD col 0).getLsbD row) n 8 fb hP hfb

end Sys2Proof.Machine
end

