-- ==== Sys2Proof/Laws/State.lean ====
section
/-! SUPPORT. One lemma per field of `State` per update of `Machine/Ops.lean`, so that no proof unfolds a record update. -/

namespace Sys2Proof.Machine.State

variable (s : State)

@[simp] theorem raise_eq_complete (c : Cause) : s.raise c = s.complete c.status := rfl

/-! ### accept -/

@[simp] theorem accept_chip (w : Request) (rest : List Request) : (s.accept w rest).chip = s.chip := rfl
@[simp] theorem accept_h64 (w : Request) (rest : List Request) : (s.accept w rest).h64 = s.h64 := rfl
@[simp] theorem accept_fb (w : Request) (rest : List Request) : (s.accept w rest).fb = s.fb := rfl
@[simp] theorem accept_inited (w : Request) (rest : List Request) : (s.accept w rest).inited = s.inited := rfl
@[simp] theorem accept_status (w : Request) (rest : List Request) : (s.accept w rest).status = s.status := rfl
@[simp] theorem accept_busy (w : Request) (rest : List Request) : (s.accept w rest).busy = true := rfl
@[simp] theorem accept_latch (w : Request) (rest : List Request) : (s.accept w rest).latch = latchesOf w := rfl
@[simp] theorem accept_seq (w : Request) (rest : List Request) : (s.accept w rest).seq = Seq.start := rfl
@[simp] theorem accept_cur (w : Request) (rest : List Request) : (s.accept w rest).cur = s.cur := rfl
@[simp] theorem accept_gb (w : Request) (rest : List Request) : (s.accept w rest).gb = s.gb := rfl
@[simp] theorem accept_tb (w : Request) (rest : List Request) : (s.accept w rest).tb = s.tb := rfl
@[simp] theorem accept_trace (w : Request) (rest : List Request) : (s.accept w rest).trace = s.trace := rfl
@[simp] theorem accept_responses (w : Request) (rest : List Request) : (s.accept w rest).responses = s.responses := rfl
@[simp] theorem accept_src (w : Request) (rest : List Request) : (s.accept w rest).src = s.src := rfl
@[simp] theorem accept_g8 (w : Request) (rest : List Request) : (s.accept w rest).g8 = s.g8 := rfl
@[simp] theorem accept_g6 (w : Request) (rest : List Request) : (s.accept w rest).g6 = s.g6 := rfl
@[simp] theorem accept_g5 (w : Request) (rest : List Request) : (s.accept w rest).g5 = s.g5 := rfl
@[simp] theorem accept_initSeq (w : Request) (rest : List Request) : (s.accept w rest).initSeq = s.initSeq := rfl
@[simp] theorem accept_requests (w : Request) (rest : List Request) : (s.accept w rest).requests = rest := rfl
@[simp] theorem accept_answers (w : Request) (rest : List Request) : (s.accept w rest).answers = s.answers := rfl
@[simp] theorem accept_answersDrawn (w : Request) (rest : List Request) : (s.accept w rest).answersDrawn = s.answersDrawn := rfl
@[simp] theorem accept_dev (w : Request) (rest : List Request) : (s.accept w rest).dev = s.dev := rfl

/-! ### resetBlock -/

@[simp] theorem resetBlock_chip (chip : Chip) (h64 : Bool) (fb : Memory) :
    (s.resetBlock chip h64 fb).chip = chip := rfl
@[simp] theorem resetBlock_h64 (chip : Chip) (h64 : Bool) (fb : Memory) :
    (s.resetBlock chip h64 fb).h64 = h64 := rfl
@[simp] theorem resetBlock_fb (chip : Chip) (h64 : Bool) (fb : Memory) :
    (s.resetBlock chip h64 fb).fb = fb := rfl
@[simp] theorem resetBlock_inited (chip : Chip) (h64 : Bool) (fb : Memory) :
    (s.resetBlock chip h64 fb).inited = false := rfl
@[simp] theorem resetBlock_status (chip : Chip) (h64 : Bool) (fb : Memory) :
    (s.resetBlock chip h64 fb).status = .ok := rfl
@[simp] theorem resetBlock_busy (chip : Chip) (h64 : Bool) (fb : Memory) :
    (s.resetBlock chip h64 fb).busy = false := rfl
@[simp] theorem resetBlock_latch (chip : Chip) (h64 : Bool) (fb : Memory) :
    (s.resetBlock chip h64 fb).latch = Latches.reset := rfl
@[simp] theorem resetBlock_seq (chip : Chip) (h64 : Bool) (fb : Memory) :
    (s.resetBlock chip h64 fb).seq = Seq.start := rfl
@[simp] theorem resetBlock_trace (chip : Chip) (h64 : Bool) (fb : Memory) :
    (s.resetBlock chip h64 fb).trace = [] := rfl
@[simp] theorem resetBlock_responses (chip : Chip) (h64 : Bool) (fb : Memory) :
    (s.resetBlock chip h64 fb).responses = [] := rfl
@[simp] theorem resetBlock_src (chip : Chip) (h64 : Bool) (fb : Memory) :
    (s.resetBlock chip h64 fb).src = s.src := rfl
@[simp] theorem resetBlock_g8 (chip : Chip) (h64 : Bool) (fb : Memory) :
    (s.resetBlock chip h64 fb).g8 = s.g8 := rfl
@[simp] theorem resetBlock_g6 (chip : Chip) (h64 : Bool) (fb : Memory) :
    (s.resetBlock chip h64 fb).g6 = s.g6 := rfl
@[simp] theorem resetBlock_g5 (chip : Chip) (h64 : Bool) (fb : Memory) :
    (s.resetBlock chip h64 fb).g5 = s.g5 := rfl
@[simp] theorem resetBlock_initSeq (chip : Chip) (h64 : Bool) (fb : Memory) :
    (s.resetBlock chip h64 fb).initSeq = s.initSeq := rfl
@[simp] theorem resetBlock_requests (chip : Chip) (h64 : Bool) (fb : Memory) :
    (s.resetBlock chip h64 fb).requests = s.requests := rfl
@[simp] theorem resetBlock_answers (chip : Chip) (h64 : Bool) (fb : Memory) :
    (s.resetBlock chip h64 fb).answers = s.answers := rfl
@[simp] theorem resetBlock_answersDrawn (chip : Chip) (h64 : Bool) (fb : Memory) :
    (s.resetBlock chip h64 fb).answersDrawn = s.answersDrawn := rfl
@[simp] theorem resetBlock_dev (chip : Chip) (h64 : Bool) (fb : Memory) :
    (s.resetBlock chip h64 fb).dev = s.dev := rfl
@[simp] theorem resetBlock_cur (chip : Chip) (h64 : Bool) (fb : Memory) :
    (s.resetBlock chip h64 fb).cur = { x := 0, y := 0 } := rfl
@[simp] theorem resetBlock_gb (chip : Chip) (h64 : Bool) (fb : Memory) :
    (s.resetBlock chip h64 fb).gb = List.replicate 8 0 := rfl
@[simp] theorem resetBlock_tb (chip : Chip) (h64 : Bool) (fb : Memory) :
    (s.resetBlock chip h64 fb).tb = List.replicate 8 0 := rfl

/-! ### complete -/

@[simp] theorem complete_chip (st : Status) : (s.complete st).chip = s.chip := rfl
@[simp] theorem complete_h64 (st : Status) : (s.complete st).h64 = s.h64 := rfl
@[simp] theorem complete_fb (st : Status) : (s.complete st).fb = s.fb := rfl
@[simp] theorem complete_inited (st : Status) : (s.complete st).inited = s.inited := rfl
@[simp] theorem complete_status (st : Status) : (s.complete st).status = st := rfl
@[simp] theorem complete_busy (st : Status) : (s.complete st).busy = false := rfl
@[simp] theorem complete_latch (st : Status) : (s.complete st).latch = s.latch := rfl
@[simp] theorem complete_seq (st : Status) : (s.complete st).seq = Seq.start := rfl
@[simp] theorem complete_cur (st : Status) : (s.complete st).cur = s.cur := rfl
@[simp] theorem complete_gb (st : Status) : (s.complete st).gb = s.gb := rfl
@[simp] theorem complete_tb (st : Status) : (s.complete st).tb = s.tb := rfl
@[simp] theorem complete_trace (st : Status) : (s.complete st).trace = s.trace := rfl
@[simp] theorem complete_responses (st : Status) : (s.complete st).responses = s.responses ++ [st] := rfl
@[simp] theorem complete_src (st : Status) : (s.complete st).src = s.src := rfl
@[simp] theorem complete_g8 (st : Status) : (s.complete st).g8 = s.g8 := rfl
@[simp] theorem complete_g6 (st : Status) : (s.complete st).g6 = s.g6 := rfl
@[simp] theorem complete_g5 (st : Status) : (s.complete st).g5 = s.g5 := rfl
@[simp] theorem complete_initSeq (st : Status) : (s.complete st).initSeq = s.initSeq := rfl
@[simp] theorem complete_requests (st : Status) : (s.complete st).requests = s.requests := rfl
@[simp] theorem complete_answers (st : Status) : (s.complete st).answers = s.answers := rfl
@[simp] theorem complete_answersDrawn (st : Status) : (s.complete st).answersDrawn = s.answersDrawn := rfl
@[simp] theorem complete_dev (st : Status) : (s.complete st).dev = s.dev := rfl

/-! ### withFb -/

@[simp] theorem withFb_chip (fb : Memory) : (s.withFb fb).chip = s.chip := rfl
@[simp] theorem withFb_h64 (fb : Memory) : (s.withFb fb).h64 = s.h64 := rfl
@[simp] theorem withFb_fb (fb : Memory) : (s.withFb fb).fb = fb := rfl
@[simp] theorem withFb_inited (fb : Memory) : (s.withFb fb).inited = s.inited := rfl
@[simp] theorem withFb_status (fb : Memory) : (s.withFb fb).status = s.status := rfl
@[simp] theorem withFb_busy (fb : Memory) : (s.withFb fb).busy = s.busy := rfl
@[simp] theorem withFb_latch (fb : Memory) : (s.withFb fb).latch = s.latch := rfl
@[simp] theorem withFb_seq (fb : Memory) : (s.withFb fb).seq = s.seq := rfl
@[simp] theorem withFb_cur (fb : Memory) : (s.withFb fb).cur = s.cur := rfl
@[simp] theorem withFb_gb (fb : Memory) : (s.withFb fb).gb = s.gb := rfl
@[simp] theorem withFb_tb (fb : Memory) : (s.withFb fb).tb = s.tb := rfl
@[simp] theorem withFb_trace (fb : Memory) : (s.withFb fb).trace = s.trace := rfl
@[simp] theorem withFb_responses (fb : Memory) : (s.withFb fb).responses = s.responses := rfl
@[simp] theorem withFb_src (fb : Memory) : (s.withFb fb).src = s.src := rfl
@[simp] theorem withFb_g8 (fb : Memory) : (s.withFb fb).g8 = s.g8 := rfl
@[simp] theorem withFb_g6 (fb : Memory) : (s.withFb fb).g6 = s.g6 := rfl
@[simp] theorem withFb_g5 (fb : Memory) : (s.withFb fb).g5 = s.g5 := rfl
@[simp] theorem withFb_initSeq (fb : Memory) : (s.withFb fb).initSeq = s.initSeq := rfl
@[simp] theorem withFb_requests (fb : Memory) : (s.withFb fb).requests = s.requests := rfl
@[simp] theorem withFb_answers (fb : Memory) : (s.withFb fb).answers = s.answers := rfl
@[simp] theorem withFb_answersDrawn (fb : Memory) : (s.withFb fb).answersDrawn = s.answersDrawn := rfl
@[simp] theorem withFb_dev (fb : Memory) : (s.withFb fb).dev = s.dev := rfl

/-! ### withInited -/

@[simp] theorem withInited_chip (b : Bool) : (s.withInited b).chip = s.chip := rfl
@[simp] theorem withInited_h64 (b : Bool) : (s.withInited b).h64 = s.h64 := rfl
@[simp] theorem withInited_fb (b : Bool) : (s.withInited b).fb = s.fb := rfl
@[simp] theorem withInited_inited (b : Bool) : (s.withInited b).inited = b := rfl
@[simp] theorem withInited_status (b : Bool) : (s.withInited b).status = s.status := rfl
@[simp] theorem withInited_busy (b : Bool) : (s.withInited b).busy = s.busy := rfl
@[simp] theorem withInited_latch (b : Bool) : (s.withInited b).latch = s.latch := rfl
@[simp] theorem withInited_seq (b : Bool) : (s.withInited b).seq = s.seq := rfl
@[simp] theorem withInited_cur (b : Bool) : (s.withInited b).cur = s.cur := rfl
@[simp] theorem withInited_gb (b : Bool) : (s.withInited b).gb = s.gb := rfl
@[simp] theorem withInited_tb (b : Bool) : (s.withInited b).tb = s.tb := rfl
@[simp] theorem withInited_trace (b : Bool) : (s.withInited b).trace = s.trace := rfl
@[simp] theorem withInited_responses (b : Bool) : (s.withInited b).responses = s.responses := rfl
@[simp] theorem withInited_src (b : Bool) : (s.withInited b).src = s.src := rfl
@[simp] theorem withInited_g8 (b : Bool) : (s.withInited b).g8 = s.g8 := rfl
@[simp] theorem withInited_g6 (b : Bool) : (s.withInited b).g6 = s.g6 := rfl
@[simp] theorem withInited_g5 (b : Bool) : (s.withInited b).g5 = s.g5 := rfl
@[simp] theorem withInited_initSeq (b : Bool) : (s.withInited b).initSeq = s.initSeq := rfl
@[simp] theorem withInited_requests (b : Bool) : (s.withInited b).requests = s.requests := rfl
@[simp] theorem withInited_answers (b : Bool) : (s.withInited b).answers = s.answers := rfl
@[simp] theorem withInited_answersDrawn (b : Bool) : (s.withInited b).answersDrawn = s.answersDrawn := rfl
@[simp] theorem withInited_dev (b : Bool) : (s.withInited b).dev = s.dev := rfl

/-! ### withSeq -/

@[simp] theorem withSeq_chip (q : Seq) : (s.withSeq q).chip = s.chip := rfl
@[simp] theorem withSeq_h64 (q : Seq) : (s.withSeq q).h64 = s.h64 := rfl
@[simp] theorem withSeq_fb (q : Seq) : (s.withSeq q).fb = s.fb := rfl
@[simp] theorem withSeq_inited (q : Seq) : (s.withSeq q).inited = s.inited := rfl
@[simp] theorem withSeq_status (q : Seq) : (s.withSeq q).status = s.status := rfl
@[simp] theorem withSeq_busy (q : Seq) : (s.withSeq q).busy = s.busy := rfl
@[simp] theorem withSeq_latch (q : Seq) : (s.withSeq q).latch = s.latch := rfl
@[simp] theorem withSeq_seq (q : Seq) : (s.withSeq q).seq = q := rfl
@[simp] theorem withSeq_cur (q : Seq) : (s.withSeq q).cur = s.cur := rfl
@[simp] theorem withSeq_gb (q : Seq) : (s.withSeq q).gb = s.gb := rfl
@[simp] theorem withSeq_tb (q : Seq) : (s.withSeq q).tb = s.tb := rfl
@[simp] theorem withSeq_trace (q : Seq) : (s.withSeq q).trace = s.trace := rfl
@[simp] theorem withSeq_responses (q : Seq) : (s.withSeq q).responses = s.responses := rfl
@[simp] theorem withSeq_src (q : Seq) : (s.withSeq q).src = s.src := rfl
@[simp] theorem withSeq_g8 (q : Seq) : (s.withSeq q).g8 = s.g8 := rfl
@[simp] theorem withSeq_g6 (q : Seq) : (s.withSeq q).g6 = s.g6 := rfl
@[simp] theorem withSeq_g5 (q : Seq) : (s.withSeq q).g5 = s.g5 := rfl
@[simp] theorem withSeq_initSeq (q : Seq) : (s.withSeq q).initSeq = s.initSeq := rfl
@[simp] theorem withSeq_requests (q : Seq) : (s.withSeq q).requests = s.requests := rfl
@[simp] theorem withSeq_answers (q : Seq) : (s.withSeq q).answers = s.answers := rfl
@[simp] theorem withSeq_answersDrawn (q : Seq) : (s.withSeq q).answersDrawn = s.answersDrawn := rfl
@[simp] theorem withSeq_dev (q : Seq) : (s.withSeq q).dev = s.dev := rfl

/-! ### withCur -/

@[simp] theorem withCur_chip (c : Cursor) : (s.withCur c).chip = s.chip := rfl
@[simp] theorem withCur_h64 (c : Cursor) : (s.withCur c).h64 = s.h64 := rfl
@[simp] theorem withCur_fb (c : Cursor) : (s.withCur c).fb = s.fb := rfl
@[simp] theorem withCur_inited (c : Cursor) : (s.withCur c).inited = s.inited := rfl
@[simp] theorem withCur_status (c : Cursor) : (s.withCur c).status = s.status := rfl
@[simp] theorem withCur_busy (c : Cursor) : (s.withCur c).busy = s.busy := rfl
@[simp] theorem withCur_latch (c : Cursor) : (s.withCur c).latch = s.latch := rfl
@[simp] theorem withCur_seq (c : Cursor) : (s.withCur c).seq = s.seq := rfl
@[simp] theorem withCur_cur (c : Cursor) : (s.withCur c).cur = c := rfl
@[simp] theorem withCur_gb (c : Cursor) : (s.withCur c).gb = s.gb := rfl
@[simp] theorem withCur_tb (c : Cursor) : (s.withCur c).tb = s.tb := rfl
@[simp] theorem withCur_trace (c : Cursor) : (s.withCur c).trace = s.trace := rfl
@[simp] theorem withCur_responses (c : Cursor) : (s.withCur c).responses = s.responses := rfl
@[simp] theorem withCur_src (c : Cursor) : (s.withCur c).src = s.src := rfl
@[simp] theorem withCur_g8 (c : Cursor) : (s.withCur c).g8 = s.g8 := rfl
@[simp] theorem withCur_g6 (c : Cursor) : (s.withCur c).g6 = s.g6 := rfl
@[simp] theorem withCur_g5 (c : Cursor) : (s.withCur c).g5 = s.g5 := rfl
@[simp] theorem withCur_initSeq (c : Cursor) : (s.withCur c).initSeq = s.initSeq := rfl
@[simp] theorem withCur_requests (c : Cursor) : (s.withCur c).requests = s.requests := rfl
@[simp] theorem withCur_answers (c : Cursor) : (s.withCur c).answers = s.answers := rfl
@[simp] theorem withCur_answersDrawn (c : Cursor) : (s.withCur c).answersDrawn = s.answersDrawn := rfl
@[simp] theorem withCur_dev (c : Cursor) : (s.withCur c).dev = s.dev := rfl

/-! ### loadGb -/

@[simp] theorem loadGb_chip (bs : List Byte) : (s.loadGb bs).chip = s.chip := rfl
@[simp] theorem loadGb_h64 (bs : List Byte) : (s.loadGb bs).h64 = s.h64 := rfl
@[simp] theorem loadGb_fb (bs : List Byte) : (s.loadGb bs).fb = s.fb := rfl
@[simp] theorem loadGb_inited (bs : List Byte) : (s.loadGb bs).inited = s.inited := rfl
@[simp] theorem loadGb_status (bs : List Byte) : (s.loadGb bs).status = s.status := rfl
@[simp] theorem loadGb_busy (bs : List Byte) : (s.loadGb bs).busy = s.busy := rfl
@[simp] theorem loadGb_latch (bs : List Byte) : (s.loadGb bs).latch = s.latch := rfl
@[simp] theorem loadGb_seq (bs : List Byte) : (s.loadGb bs).seq = s.seq := rfl
@[simp] theorem loadGb_cur (bs : List Byte) : (s.loadGb bs).cur = s.cur := rfl
@[simp] theorem loadGb_gb (bs : List Byte) : (s.loadGb bs).gb = bs ++ s.gb.drop bs.length := rfl
@[simp] theorem loadGb_tb (bs : List Byte) : (s.loadGb bs).tb = s.tb := rfl
@[simp] theorem loadGb_trace (bs : List Byte) : (s.loadGb bs).trace = s.trace := rfl
@[simp] theorem loadGb_responses (bs : List Byte) : (s.loadGb bs).responses = s.responses := rfl
@[simp] theorem loadGb_src (bs : List Byte) : (s.loadGb bs).src = s.src := rfl
@[simp] theorem loadGb_g8 (bs : List Byte) : (s.loadGb bs).g8 = s.g8 := rfl
@[simp] theorem loadGb_g6 (bs : List Byte) : (s.loadGb bs).g6 = s.g6 := rfl
@[simp] theorem loadGb_g5 (bs : List Byte) : (s.loadGb bs).g5 = s.g5 := rfl
@[simp] theorem loadGb_initSeq (bs : List Byte) : (s.loadGb bs).initSeq = s.initSeq := rfl
@[simp] theorem loadGb_requests (bs : List Byte) : (s.loadGb bs).requests = s.requests := rfl
@[simp] theorem loadGb_answers (bs : List Byte) : (s.loadGb bs).answers = s.answers := rfl
@[simp] theorem loadGb_answersDrawn (bs : List Byte) : (s.loadGb bs).answersDrawn = s.answersDrawn := rfl
@[simp] theorem loadGb_dev (bs : List Byte) : (s.loadGb bs).dev = s.dev := rfl

/-! ### loadTb -/

@[simp] theorem loadTb_chip (bs : List Byte) : (s.loadTb bs).chip = s.chip := rfl
@[simp] theorem loadTb_h64 (bs : List Byte) : (s.loadTb bs).h64 = s.h64 := rfl
@[simp] theorem loadTb_fb (bs : List Byte) : (s.loadTb bs).fb = s.fb := rfl
@[simp] theorem loadTb_inited (bs : List Byte) : (s.loadTb bs).inited = s.inited := rfl
@[simp] theorem loadTb_status (bs : List Byte) : (s.loadTb bs).status = s.status := rfl
@[simp] theorem loadTb_busy (bs : List Byte) : (s.loadTb bs).busy = s.busy := rfl
@[simp] theorem loadTb_latch (bs : List Byte) : (s.loadTb bs).latch = s.latch := rfl
@[simp] theorem loadTb_seq (bs : List Byte) : (s.loadTb bs).seq = s.seq := rfl
@[simp] theorem loadTb_cur (bs : List Byte) : (s.loadTb bs).cur = s.cur := rfl
@[simp] theorem loadTb_gb (bs : List Byte) : (s.loadTb bs).gb = s.gb := rfl
@[simp] theorem loadTb_tb (bs : List Byte) : (s.loadTb bs).tb = bs ++ s.tb.drop bs.length := rfl
@[simp] theorem loadTb_trace (bs : List Byte) : (s.loadTb bs).trace = s.trace := rfl
@[simp] theorem loadTb_responses (bs : List Byte) : (s.loadTb bs).responses = s.responses := rfl
@[simp] theorem loadTb_src (bs : List Byte) : (s.loadTb bs).src = s.src := rfl
@[simp] theorem loadTb_g8 (bs : List Byte) : (s.loadTb bs).g8 = s.g8 := rfl
@[simp] theorem loadTb_g6 (bs : List Byte) : (s.loadTb bs).g6 = s.g6 := rfl
@[simp] theorem loadTb_g5 (bs : List Byte) : (s.loadTb bs).g5 = s.g5 := rfl
@[simp] theorem loadTb_initSeq (bs : List Byte) : (s.loadTb bs).initSeq = s.initSeq := rfl
@[simp] theorem loadTb_requests (bs : List Byte) : (s.loadTb bs).requests = s.requests := rfl
@[simp] theorem loadTb_answers (bs : List Byte) : (s.loadTb bs).answers = s.answers := rfl
@[simp] theorem loadTb_answersDrawn (bs : List Byte) : (s.loadTb bs).answersDrawn = s.answersDrawn := rfl
@[simp] theorem loadTb_dev (bs : List Byte) : (s.loadTb bs).dev = s.dev := rfl

/-! ### withDev -/

@[simp] theorem withDev_chip (d : Dev) : (s.withDev d).chip = s.chip := rfl
@[simp] theorem withDev_h64 (d : Dev) : (s.withDev d).h64 = s.h64 := rfl
@[simp] theorem withDev_fb (d : Dev) : (s.withDev d).fb = s.fb := rfl
@[simp] theorem withDev_inited (d : Dev) : (s.withDev d).inited = s.inited := rfl
@[simp] theorem withDev_status (d : Dev) : (s.withDev d).status = s.status := rfl
@[simp] theorem withDev_busy (d : Dev) : (s.withDev d).busy = s.busy := rfl
@[simp] theorem withDev_latch (d : Dev) : (s.withDev d).latch = s.latch := rfl
@[simp] theorem withDev_seq (d : Dev) : (s.withDev d).seq = s.seq := rfl
@[simp] theorem withDev_cur (d : Dev) : (s.withDev d).cur = s.cur := rfl
@[simp] theorem withDev_gb (d : Dev) : (s.withDev d).gb = s.gb := rfl
@[simp] theorem withDev_tb (d : Dev) : (s.withDev d).tb = s.tb := rfl
@[simp] theorem withDev_trace (d : Dev) : (s.withDev d).trace = s.trace := rfl
@[simp] theorem withDev_responses (d : Dev) : (s.withDev d).responses = s.responses := rfl
@[simp] theorem withDev_src (d : Dev) : (s.withDev d).src = s.src := rfl
@[simp] theorem withDev_g8 (d : Dev) : (s.withDev d).g8 = s.g8 := rfl
@[simp] theorem withDev_g6 (d : Dev) : (s.withDev d).g6 = s.g6 := rfl
@[simp] theorem withDev_g5 (d : Dev) : (s.withDev d).g5 = s.g5 := rfl
@[simp] theorem withDev_initSeq (d : Dev) : (s.withDev d).initSeq = s.initSeq := rfl
@[simp] theorem withDev_requests (d : Dev) : (s.withDev d).requests = s.requests := rfl
@[simp] theorem withDev_answers (d : Dev) : (s.withDev d).answers = s.answers := rfl
@[simp] theorem withDev_answersDrawn (d : Dev) : (s.withDev d).answersDrawn = s.answersDrawn := rfl
@[simp] theorem withDev_dev (d : Dev) : (s.withDev d).dev = d := rfl

/-! ### record -/

@[simp] theorem record_chip (e : Event) : (s.record e).chip = s.chip := rfl
@[simp] theorem record_h64 (e : Event) : (s.record e).h64 = s.h64 := rfl
@[simp] theorem record_fb (e : Event) : (s.record e).fb = s.fb := rfl
@[simp] theorem record_inited (e : Event) : (s.record e).inited = s.inited := rfl
@[simp] theorem record_status (e : Event) : (s.record e).status = s.status := rfl
@[simp] theorem record_busy (e : Event) : (s.record e).busy = s.busy := rfl
@[simp] theorem record_latch (e : Event) : (s.record e).latch = s.latch := rfl
@[simp] theorem record_seq (e : Event) : (s.record e).seq = s.seq := rfl
@[simp] theorem record_cur (e : Event) : (s.record e).cur = s.cur := rfl
@[simp] theorem record_gb (e : Event) : (s.record e).gb = s.gb := rfl
@[simp] theorem record_tb (e : Event) : (s.record e).tb = s.tb := rfl
@[simp] theorem record_trace (e : Event) : (s.record e).trace = s.trace ++ [e] := rfl
@[simp] theorem record_responses (e : Event) : (s.record e).responses = s.responses := rfl
@[simp] theorem record_src (e : Event) : (s.record e).src = s.src := rfl
@[simp] theorem record_g8 (e : Event) : (s.record e).g8 = s.g8 := rfl
@[simp] theorem record_g6 (e : Event) : (s.record e).g6 = s.g6 := rfl
@[simp] theorem record_g5 (e : Event) : (s.record e).g5 = s.g5 := rfl
@[simp] theorem record_initSeq (e : Event) : (s.record e).initSeq = s.initSeq := rfl
@[simp] theorem record_requests (e : Event) : (s.record e).requests = s.requests := rfl
@[simp] theorem record_answers (e : Event) : (s.record e).answers = s.answers := rfl
@[simp] theorem record_answersDrawn (e : Event) : (s.record e).answersDrawn = s.answersDrawn := rfl
@[simp] theorem record_dev (e : Event) : (s.record e).dev = s.dev.deliver s.chip e := rfl

/-! ### dropAnswer -/

@[simp] theorem dropAnswer_chip : s.dropAnswer.chip = s.chip := by unfold dropAnswer; split <;> rfl
@[simp] theorem dropAnswer_h64 : s.dropAnswer.h64 = s.h64 := by unfold dropAnswer; split <;> rfl
@[simp] theorem dropAnswer_fb : s.dropAnswer.fb = s.fb := by unfold dropAnswer; split <;> rfl
@[simp] theorem dropAnswer_inited : s.dropAnswer.inited = s.inited := by unfold dropAnswer; split <;> rfl
@[simp] theorem dropAnswer_status : s.dropAnswer.status = s.status := by unfold dropAnswer; split <;> rfl
@[simp] theorem dropAnswer_busy : s.dropAnswer.busy = s.busy := by unfold dropAnswer; split <;> rfl
@[simp] theorem dropAnswer_latch : s.dropAnswer.latch = s.latch := by unfold dropAnswer; split <;> rfl
@[simp] theorem dropAnswer_seq : s.dropAnswer.seq = s.seq := by unfold dropAnswer; split <;> rfl
@[simp] theorem dropAnswer_cur : s.dropAnswer.cur = s.cur := by unfold dropAnswer; split <;> rfl
@[simp] theorem dropAnswer_gb : s.dropAnswer.gb = s.gb := by unfold dropAnswer; split <;> rfl
@[simp] theorem dropAnswer_tb : s.dropAnswer.tb = s.tb := by unfold dropAnswer; split <;> rfl
@[simp] theorem dropAnswer_trace : s.dropAnswer.trace = s.trace := by unfold dropAnswer; split <;> rfl
@[simp] theorem dropAnswer_responses : s.dropAnswer.responses = s.responses := by unfold dropAnswer; split <;> rfl
@[simp] theorem dropAnswer_src : s.dropAnswer.src = s.src := by unfold dropAnswer; split <;> rfl
@[simp] theorem dropAnswer_g8 : s.dropAnswer.g8 = s.g8 := by unfold dropAnswer; split <;> rfl
@[simp] theorem dropAnswer_g6 : s.dropAnswer.g6 = s.g6 := by unfold dropAnswer; split <;> rfl
@[simp] theorem dropAnswer_g5 : s.dropAnswer.g5 = s.g5 := by unfold dropAnswer; split <;> rfl
@[simp] theorem dropAnswer_initSeq : s.dropAnswer.initSeq = s.initSeq := by unfold dropAnswer; split <;> rfl
@[simp] theorem dropAnswer_requests : s.dropAnswer.requests = s.requests := by unfold dropAnswer; split <;> rfl
@[simp] theorem dropAnswer_dev : s.dropAnswer.dev = s.dev := by unfold dropAnswer; split <;> rfl

@[simp] theorem dropAnswer_answers : s.dropAnswer.answers = s.answers.tail := by
  unfold dropAnswer; split <;> simp_all

/-! ### transmit -/

@[simp] theorem transmit_chip (mode : BusMode) (payload : List Byte) : (s.transmit mode payload).chip = s.chip := by
  simp [transmit]
@[simp] theorem transmit_h64 (mode : BusMode) (payload : List Byte) : (s.transmit mode payload).h64 = s.h64 := by
  simp [transmit]
@[simp] theorem transmit_fb (mode : BusMode) (payload : List Byte) : (s.transmit mode payload).fb = s.fb := by
  simp [transmit]
@[simp] theorem transmit_inited (mode : BusMode) (payload : List Byte) : (s.transmit mode payload).inited = s.inited := by
  simp [transmit]
@[simp] theorem transmit_status (mode : BusMode) (payload : List Byte) : (s.transmit mode payload).status = s.status := by
  simp [transmit]
@[simp] theorem transmit_busy (mode : BusMode) (payload : List Byte) : (s.transmit mode payload).busy = s.busy := by
  simp [transmit]
@[simp] theorem transmit_latch (mode : BusMode) (payload : List Byte) : (s.transmit mode payload).latch = s.latch := by
  simp [transmit]
@[simp] theorem transmit_seq (mode : BusMode) (payload : List Byte) : (s.transmit mode payload).seq = s.seq := by
  simp [transmit]
@[simp] theorem transmit_cur (mode : BusMode) (payload : List Byte) : (s.transmit mode payload).cur = s.cur := by
  simp [transmit]
@[simp] theorem transmit_gb (mode : BusMode) (payload : List Byte) : (s.transmit mode payload).gb = s.gb := by
  simp [transmit]
@[simp] theorem transmit_tb (mode : BusMode) (payload : List Byte) : (s.transmit mode payload).tb = s.tb := by
  simp [transmit]
@[simp] theorem transmit_trace (mode : BusMode) (payload : List Byte) : (s.transmit mode payload).trace = s.trace ++ [{ mode := mode, payload := payload, answer := s.answerAt 0 }] := by
  simp [transmit]
@[simp] theorem transmit_responses (mode : BusMode) (payload : List Byte) : (s.transmit mode payload).responses = s.responses := by
  simp [transmit]
@[simp] theorem transmit_src (mode : BusMode) (payload : List Byte) : (s.transmit mode payload).src = s.src := by
  simp [transmit]
@[simp] theorem transmit_g8 (mode : BusMode) (payload : List Byte) : (s.transmit mode payload).g8 = s.g8 := by
  simp [transmit]
@[simp] theorem transmit_g6 (mode : BusMode) (payload : List Byte) : (s.transmit mode payload).g6 = s.g6 := by
  simp [transmit]
@[simp] theorem transmit_g5 (mode : BusMode) (payload : List Byte) : (s.transmit mode payload).g5 = s.g5 := by
  simp [transmit]
@[simp] theorem transmit_initSeq (mode : BusMode) (payload : List Byte) : (s.transmit mode payload).initSeq = s.initSeq := by
  simp [transmit]
@[simp] theorem transmit_requests (mode : BusMode) (payload : List Byte) : (s.transmit mode payload).requests = s.requests := by
  simp [transmit]
@[simp] theorem transmit_dev (mode : BusMode) (payload : List Byte) : (s.transmit mode payload).dev = s.dev.deliver s.chip { mode := mode, payload := payload, answer := s.answerAt 0 } := by
  simp [transmit]

/-! ### The transport's answers -/

/-- After one message the next answers are the ones that followed. -/
@[simp] theorem answerAt_dropAnswer (k : Nat) : s.dropAnswer.answerAt k = s.answerAt (k + 1) := by
  unfold answerAt dropAnswer
  cases h : s.answers with
  | nil => simp [Nat.add_assoc, Nat.add_comm 1 k]
  | cons a rest => simp

/-- Only the two answer fields decide what the transport answers. -/
theorem answerAt_congr {s t : State} (ha : s.answers = t.answers) (hd : s.answersDrawn = t.answersDrawn) (k : Nat) :
    s.answerAt k = t.answerAt k := by
  unfold answerAt; rw [ha, hd]

@[simp] theorem answerAt_accept (w : Request) (rest : List Request) (k : Nat) : (s.accept w rest).answerAt k = s.answerAt k := rfl
@[simp] theorem answerAt_complete (st : Status) (k : Nat) : (s.complete st).answerAt k = s.answerAt k := rfl
@[simp] theorem answerAt_withFb (fb : Memory) (k : Nat) : (s.withFb fb).answerAt k = s.answerAt k := rfl
@[simp] theorem answerAt_withInited (b : Bool) (k : Nat) : (s.withInited b).answerAt k = s.answerAt k := rfl
@[simp] theorem answerAt_withSeq (q : Seq) (k : Nat) : (s.withSeq q).answerAt k = s.answerAt k := rfl
@[simp] theorem answerAt_withCur (c : Cursor) (k : Nat) : (s.withCur c).answerAt k = s.answerAt k := rfl
@[simp] theorem answerAt_loadGb (bs : List Byte) (k : Nat) : (s.loadGb bs).answerAt k = s.answerAt k := rfl
@[simp] theorem answerAt_loadTb (bs : List Byte) (k : Nat) : (s.loadTb bs).answerAt k = s.answerAt k := rfl
@[simp] theorem answerAt_withDev (d : Dev) (k : Nat) : (s.withDev d).answerAt k = s.answerAt k := rfl
@[simp] theorem answerAt_record (e : Event) (k : Nat) : (s.record e).answerAt k = s.answerAt k := rfl

@[simp] theorem answerAt_transmit (mode : BusMode) (payload : List Byte) (k : Nat) :
    (s.transmit mode payload).answerAt k = s.answerAt (k + 1) := by
  simp [transmit]

end Sys2Proof.Machine.State
end

