-- ==== Sys2Proof/Laws/Glyph.lean ====
section
/-! SUPPORT. Characters and strings: what one character does to the state, and one more character of a string. -/

namespace Sys2Proof.Machine

/-! ### Bytes built bit by bit -/

/-- A byte built by or-ing in one bit per row holds exactly those bits (R180). -/
theorem getLsbD_orLoop (f : Nat → Bool) (n : Nat) (hn : n ≤ 8) (k : Nat) (hk : k < 8) :
    (forUp n (fun ry out => if f ry then out ||| (1#8 <<< ry) else out) 0#8).getLsbD k = (decide (k < n) && f k) := by
  induction n with
  | zero => simp
  | succ n ih =>
    have hlt : k ≠ n → (k < n + 1) = (k < n) := fun h => by simp; omega
    rw [forUp_succ]
    split
    next h =>
      have e := plotBit_getLsbD (forUp n (fun ry out => if f ry then out ||| (1#8 <<< ry) else out) 0#8) n k true
        (by omega) hk
      simp only [plotBit, if_true] at e
      rw [e, ih (by omega)]
      by_cases hkn : k = n
      · subst hkn; simp [h]
      · simp [hkn, hlt hkn]
    next h =>
      rw [ih (by omega)]
      by_cases hkn : k = n
      · subst hkn; simp [h]
      · simp [hlt hkn]

@[simp] theorem transpose_length (rows : List Byte) (width height : Nat) :
    (transpose rows width height).length = width := by simp [transpose]

@[simp] theorem glyphBytes_length (s : State) (font : Font) (c : Byte) :
    (glyphBytes s font c).length = glyphCols font := by simp [glyphBytes]

theorem glyphCols_le (font : Font) : glyphCols font ≤ 8 := by cases font <;> decide

/-! ### One character -/

/-- A character writes `FB` by one blit of its columns (R184 to R187). -/
theorem drawChar_fb (font : Font) (x y : Int) (c : Byte) (s : State) :
    (drawChar font x y c s).fb = blit s.h64 x y (glyphColumns s font c) (glyphCols font) s.fb := by
  cases font <;> rfl

/-- A character writes `FB`, `GB` and `TB` and nothing else. -/
theorem drawChar_frame (font : Font) (x y : Int) (c : Byte) (s : State) :
    drawChar font x y c s = { s with
      fb := (drawChar font x y c s).fb, gb := (drawChar font x y c s).gb, tb := (drawChar font x y c s).tb } := by
  cases font <;> rfl

/-- `GB` stays 8 bytes long (R29). -/
theorem drawChar_gb_length (font : Font) (x y : Int) (c : Byte) (s : State) (h : s.gb.length = 8) :
    (drawChar font x y c s).gb.length = 8 := by
  cases font <;> simp [drawChar, h, glyphCols]

/-- `TB` stays 8 bytes long (R29). -/
theorem drawChar_tb_length (font : Font) (x y : Int) (c : Byte) (s : State) (h : s.tb.length = 8) :
    (drawChar font x y c s).tb.length = 8 := by
  cases font <;> simp [drawChar, h, glyphColumns]

/-! ### Strings -/

/-- A string writes `FB`, `CUR`, `GB`, `TB` and `SEQ` and nothing else; after `n` characters the cursor stands `n`
advances right of where it began (R28, R190). -/
theorem drawString_frame (font : Font) (x y : Int) (ptr : BitVec 32) (s : State) (n : Nat) :
    drawString font x y n ptr s = { s with
      fb := (drawString font x y n ptr s).fb, cur := { x := x + advance font * n, y := y },
      gb := (drawString font x y n ptr s).gb, tb := (drawString font x y n ptr s).tb,
      seq := (drawString font x y n ptr s).seq } := by
  unfold drawString
  induction n with
  | zero => simp [State.withCur]
  | succ n ih =>
    rw [forUp_succ]
    generalize forUp n (drawNext font y ptr) (s.withCur { x := x, y := y }) = u at ih
    simp only [drawNext]
    rw [drawChar_frame]
    simp only [State.withCur, State.withSeq]
    rw [ih]
    simp
    ring

/-- The `n`-th character of a string is one blit at its place (R191 to R193). -/
theorem drawString_succ_fb (font : Font) (x y : Int) (ptr : BitVec 32) (s : State) (n : Nat) :
    (drawString font x y (n + 1) ptr s).fb =
      blit s.h64 (x + advance font * n) y (glyphColumns s font (textByte s ptr n)) (glyphCols font)
        (drawString font x y n ptr s).fb := by
  have hf := drawString_frame font x y ptr s n
  unfold drawString at hf ⊢
  rw [forUp_succ]
  simp only [drawNext, State.withCur_fb, drawChar_fb, State.withSeq_fb]
  rw [hf]
  cases font <;> rfl

/-- A property of states that every character of a string keeps holds after the string. -/
theorem drawString_keeps (P : State → Prop) (font : Font) (x y : Int) (ptr : BitVec 32) (s : State) (n : Nat)
    (h0 : P (s.withCur { x := x, y := y })) (hstep : ∀ k t, P t → P (drawNext font y ptr k t)) :
    P (drawString font x y n ptr s) :=
  forUp_keeps P _ n _ h0 fun k t _ ht => hstep k t ht

end Sys2Proof.Machine
end

