-- ==== Sys2Proof/Laws/Messages.lean ====
section
/-! SUPPORT. What an operation that transmits does, said once: `Sent s ms p` describes the state after sending the
messages `ms` in order up to the first failing one, and every sending operation of the block satisfies it. -/

namespace Sys2Proof.Machine

/-! ### Leading `ok` answers -/

theorem leadingOk_le (a : Nat → Answer) (n : Nat) : leadingOk a n ≤ n := by
  induction n with
  | zero => exact Nat.le_refl 0
  | succ n ih => simp only [leadingOk]; split <;> omega

theorem leadingOk_eq_iff (a : Nat → Answer) (n : Nat) : leadingOk a n = n ↔ ∀ k, k < n → a k = .ok := by
  induction n with
  | zero => simp [leadingOk]
  | succ n ih =>
    have hle := leadingOk_le a n
    simp only [leadingOk]
    constructor
    · intro h k hk
      split at h
      next hc =>
        rcases Nat.lt_succ_iff_lt_or_eq.mp hk with hlt | rfl
        · exact ih.mp hc.1 k hlt
        · exact hc.2
      next => omega
    · intro h
      rw [if_pos ⟨ih.mpr fun k hk => h k (by omega), h n (by omega)⟩]

/-- After `m` messages all answered `ok`, the count goes on with the later answers. -/
theorem leadingOk_add_of_ok (a : Nat → Answer) (m n : Nat) (h : leadingOk a m = m) :
    leadingOk a (m + n) = m + leadingOk (fun k => a (m + k)) n := by
  induction n with
  | zero => exact h
  | succ n ih =>
    rw [← Nat.add_assoc]
    simp only [leadingOk, ih]
    have : (m + leadingOk (fun k => a (m + k)) n = m + n) = (leadingOk (fun k => a (m + k)) n = n) := by simp
    simp only [this]
    split <;> omega

/-- A failure among the first `m` messages ends the count. -/
theorem leadingOk_add_of_fail (a : Nat → Answer) (m n : Nat) (h : leadingOk a m < m) :
    leadingOk a (m + n) = leadingOk a m := by
  induction n with
  | zero => rfl
  | succ n ih => rw [← Nat.add_assoc]; simp only [leadingOk, ih]; rw [if_neg (by omega)]

/-! ### The events of a list of messages -/

theorem sentEvents_length (a : Nat → Answer) (ms : List (BusMode × List Byte)) :
    (sentEvents a ms).length = min (leadingOk a ms.length + 1) ms.length := by simp [sentEvents]

theorem sentEvents_append_of_fail (a : Nat → Answer) (ms ns : List (BusMode × List Byte))
    (h : leadingOk a ms.length < ms.length) : sentEvents a (ms ++ ns) = sentEvents a ms := by
  unfold sentEvents
  rw [List.length_append, leadingOk_add_of_fail a _ _ h,
    show min (leadingOk a ms.length + 1) (ms.length + ns.length) = min (leadingOk a ms.length + 1) ms.length by omega]
  refine List.map_congr_left fun k hk => ?_
  have : k < ms.length := by have := List.mem_range.mp hk; omega
  simp [List.getElem?_append_left this]

theorem sentEvents_append_of_ok (a : Nat → Answer) (ms ns : List (BusMode × List Byte))
    (h : leadingOk a ms.length = ms.length) :
    sentEvents a (ms ++ ns) = sentEvents a ms ++ sentEvents (fun k => a (ms.length + k)) ns := by
  unfold sentEvents
  rw [List.length_append, leadingOk_add_of_ok a _ _ h, h,
    show min (ms.length + leadingOk (fun k => a (ms.length + k)) ns.length + 1) (ms.length + ns.length) =
      ms.length + min (leadingOk (fun k => a (ms.length + k)) ns.length + 1) ns.length by omega,
    show min (ms.length + 1) ms.length = ms.length by omega, List.range_add, List.map_append, List.map_map]
  congr 1
  · refine List.map_congr_left fun k hk => ?_
    simp [List.getElem?_append_left (List.mem_range.mp hk)]
  · refine List.map_congr_left fun k _ => ?_
    simp [List.getElem?_append_right (Nat.le_add_right ms.length k)]

/-- Every event sent carries one of the messages. -/
theorem mem_sentEvents {a : Nat → Answer} {ms : List (BusMode × List Byte)} {e : Event} (h : e ∈ sentEvents a ms) :
    (e.mode, e.payload) ∈ ms := by
  simp only [sentEvents, List.mem_map, List.mem_range] at h
  obtain ⟨k, hk, rfl⟩ := h
  have hk' : k < ms.length := by omega
  simp [hk', List.getD_eq_getElem?_getD]

/-- When none fails, the events are the messages, each answered `ok`. -/
theorem sentEvents_of_ok (a : Nat → Answer) (ms : List (BusMode × List Byte)) (h : leadingOk a ms.length = ms.length) :
    sentEvents a ms = ms.map fun m => { mode := m.1, payload := m.2, answer := .ok } := by
  have hall := (leadingOk_eq_iff a ms.length).mp h
  unfold sentEvents
  rw [h, show min (ms.length + 1) ms.length = ms.length by omega]
  apply List.ext_getElem
  · simp
  · intro k h1 h2
    have hk : k < ms.length := by simpa using h1
    simp [hall k hk, List.getD_eq_getElem?_getD, hk]

/-! ### `Sent` -/

/-- `p` is the progress after sending the messages `ms` in order from `s`, up to the first failing one (R139, R232): the
trace gains their events, the device takes them, the answers are used up in order, and nothing else but `SEQ` changes. -/
structure Sent (s : State) (ms : List (BusMode × List Byte)) (p : Progress) : Prop where
  answer_ok : p.answer = .ok ↔ leadingOk s.answerAt ms.length = ms.length
  trace : p.state.trace = s.trace ++ sentEvents s.answerAt ms
  dev : p.state.dev = (sentEvents s.answerAt ms).foldl (fun d e => d.deliver s.chip e) s.dev
  answers_after : p.answer = .ok → ∀ k, p.state.answerAt k = s.answerAt (ms.length + k)
  answers : p.state.answers = s.answers.drop (sentEvents s.answerAt ms).length
  drawn : p.state.answersDrawn = s.answersDrawn + ((sentEvents s.answerAt ms).length - s.answers.length)
  frame : p.state = { s with
    seq := p.state.seq, trace := p.state.trace, dev := p.state.dev, answers := p.state.answers,
    answersDrawn := p.state.answersDrawn }

namespace Sent

variable {s : State} {ms : List (BusMode × List Byte)} {p : Progress}

theorem chip (h : Sent s ms p) : p.state.chip = s.chip := by rw [h.frame]
theorem h64 (h : Sent s ms p) : p.state.h64 = s.h64 := by rw [h.frame]
theorem fb (h : Sent s ms p) : p.state.fb = s.fb := by rw [h.frame]
theorem inited (h : Sent s ms p) : p.state.inited = s.inited := by rw [h.frame]
theorem status (h : Sent s ms p) : p.state.status = s.status := by rw [h.frame]
theorem busy (h : Sent s ms p) : p.state.busy = s.busy := by rw [h.frame]
theorem latch (h : Sent s ms p) : p.state.latch = s.latch := by rw [h.frame]
theorem cur (h : Sent s ms p) : p.state.cur = s.cur := by rw [h.frame]
theorem gb (h : Sent s ms p) : p.state.gb = s.gb := by rw [h.frame]
theorem tb (h : Sent s ms p) : p.state.tb = s.tb := by rw [h.frame]
theorem responses (h : Sent s ms p) : p.state.responses = s.responses := by rw [h.frame]
theorem src (h : Sent s ms p) : p.state.src = s.src := by rw [h.frame]
theorem g8 (h : Sent s ms p) : p.state.g8 = s.g8 := by rw [h.frame]
theorem g6 (h : Sent s ms p) : p.state.g6 = s.g6 := by rw [h.frame]
theorem g5 (h : Sent s ms p) : p.state.g5 = s.g5 := by rw [h.frame]
theorem initSeq (h : Sent s ms p) : p.state.initSeq = s.initSeq := by rw [h.frame]
theorem requests (h : Sent s ms p) : p.state.requests = s.requests := by rw [h.frame]

theorem none (s : State) : Sent s [] { answer := .ok, state := s } where
  answer_ok := by simp [leadingOk]
  trace := by simp [sentEvents]
  dev := by simp [sentEvents]
  answers_after := by simp
  answers := by simp [sentEvents]
  drawn := by simp [sentEvents]
  frame := rfl

theorem one (s : State) (mode : BusMode) (payload : List Byte) (q : Seq) :
    Sent s [(mode, payload)] (Progress.send mode payload (s.withSeq q)) where
  answer_ok := by simp [Progress.send, leadingOk]
  trace := by
    simp [Progress.send, sentEvents]
  dev := by
    simp [Progress.send, sentEvents]
  answers_after := by intro _ k; simp [Progress.send, Nat.add_comm]
  answers := by simp [Progress.send, sentEvents, State.transmit]
  drawn := by
    simp only [Progress.send, State.transmit, State.record, State.dropAnswer, State.withSeq, sentEvents_length]
    cases s.answers <;> simp
  frame := by
    simp only [Progress.send, State.transmit, State.record, State.dropAnswer, State.withSeq]
    cases s.answers <;> rfl

/-- Two stretches of an operation, the second performed only when the first met no failure. -/
theorem andThen {ns : List (BusMode × List Byte)} {f : State → Progress}
    (hp : Sent s ms p) (hf : p.answer = .ok → Sent p.state ns (f p.state)) : Sent s (ms ++ ns) (p.andThen f) := by
  cases ha : p.answer with
  | fail =>
    have hlt : leadingOk s.answerAt ms.length < ms.length := by
      have hne : ¬ leadingOk s.answerAt ms.length = ms.length := fun e => by
        have := hp.answer_ok.mpr e; rw [ha] at this; cases this
      have := leadingOk_le s.answerAt ms.length; omega
    have he : p.andThen f = p := by simp [Progress.andThen, ha]
    rw [he]
    refine ⟨?_, ?_, ?_, ?_, ?_, ?_, hp.frame⟩
    · rw [List.length_append, leadingOk_add_of_fail _ _ _ hlt, ha]
      constructor
      · intro h; cases h
      · intro h; omega
    · rw [sentEvents_append_of_fail _ _ _ hlt]; exact hp.trace
    · rw [sentEvents_append_of_fail _ _ _ hlt]; exact hp.dev
    · intro h; rw [ha] at h; cases h
    · rw [sentEvents_append_of_fail _ _ _ hlt]; exact hp.answers
    · rw [sentEvents_append_of_fail _ _ _ hlt]; exact hp.drawn
  | ok =>
    have hok := hp.answer_ok.mp ha
    have hq := hf ha
    have he : p.andThen f = f p.state := by simp [Progress.andThen, ha]
    have hans : p.state.answerAt = fun k => s.answerAt (ms.length + k) := funext (hp.answers_after ha)
    have hchip : p.state.chip = s.chip := by rw [hp.frame]
    rw [he]
    refine ⟨?_, ?_, ?_, ?_, ?_, ?_, ?_⟩
    · rw [List.length_append, leadingOk_add_of_ok _ _ _ hok, hq.answer_ok, hans]
      constructor <;> intro h <;> omega
    · rw [sentEvents_append_of_ok _ _ _ hok, hq.trace, hp.trace, hans, List.append_assoc]
    · rw [sentEvents_append_of_ok _ _ _ hok, hq.dev, hp.dev, hans, hchip, List.foldl_append]
    · intro h k
      rw [hq.answers_after h, hans, List.length_append, Nat.add_assoc]
    · rw [sentEvents_append_of_ok _ _ _ hok, hq.answers, hp.answers, hans, List.length_append, List.drop_drop]
    · rw [sentEvents_append_of_ok _ _ _ hok, hq.drawn, hp.drawn, hp.answers, hans, List.length_append, List.length_drop]
      omega
    · rw [hq.frame, hp.frame]

/-- The end of the operation: its status is `OK` iff none of its messages failed. -/
theorem finish (h : Sent s ms p) :
    p.finish = p.state.complete (sentStatus s.answerAt ms.length) := by
  have := h.answer_ok
  unfold Progress.finish sentStatus
  cases ha : p.answer with
  | ok => rw [ha] at this; rw [if_pos (this.mp rfl)]
  | fail => rw [ha] at this; rw [if_neg (fun e => by cases this.mpr e)]; rfl

end Sent

/-! ### What each sending operation sends -/

/-- The messages of one page in terms of the block's own payload builder. -/
def pageSends (chip : Chip) (fb : Memory) (p : Nat) : List (BusMode × List Byte) :=
  match flushStrategy chip with
  | .single => [(.data, pageData fb p)]
  | .split => [(.cmd, posPayload p (deviceColumn chip 0)), (.data, pageData fb p)]

/-- One page (R133, R135, R137). -/
theorem sent_sendPage (p : Nat) (s : State) : Sent s (pageSends s.chip s.fb p) (sendPage p s) := by
  unfold sendPage pageSends
  cases flushStrategy s.chip with
  | single => exact Sent.one s _ _ _
  | split =>
    have h1 := Sent.one s .cmd (posPayload p (deviceColumn s.chip 0)) { s.seq with pg := p, ph := 0 }
    refine h1.andThen (ns := [(.data, pageData s.fb p)]) fun _ => ?_
    have := Sent.one (Progress.send .cmd (posPayload p (deviceColumn s.chip 0))
      (s.withSeq { s.seq with pg := p, ph := 0 })).state .data
      (pageData (Progress.send .cmd (posPayload p (deviceColumn s.chip 0))
        (s.withSeq { s.seq with pg := p, ph := 0 })).state.fb p)
    simp only [h1.fb] at this ⊢
    exact this _

/-- The first `n` pages (R138). -/
theorem sent_sendPages (n : Nat) (s : State) :
    Sent s ((List.range n).flatMap (pageSends s.chip s.fb)) (sendPages n s) := by
  induction n with
  | zero => exact Sent.none s
  | succ n ih =>
    rw [List.range_succ, List.flatMap_append, List.flatMap_singleton]
    refine ih.andThen fun _ => ?_
    have := sent_sendPage n (sendPages n s).state
    rwa [ih.chip, ih.fb] at this

end Sys2Proof.Machine
end

