-- ==== Sys2Proof/Laws/Exec.lean ====
section
/-! SUPPORT. What an instruction can do, said once for each of the three shapes: a controller command, a drawing
operation, an operation that sends. -/

namespace Sys2Proof.Machine

/-- A controller command is its effect on the device mirror and nothing else (R200 to R218). -/
theorem exec_command (i : Instr) (s : State) (h : i.port = .device) :
    exec i s = .next (s.withDev (s.dev.command s.chip i)) := by
  cases i <;> first | rfl | cases h

/-! ### Drawing -/

/-- What a drawing operation can do before it completes: `FB` by `setPixel` calls or the clear (R57), the glyph
registers, the cursor and `SEQ`. -/
structure Drawn (s t : State) : Prop where
  frame : t = { s with fb := t.fb, cur := t.cur, gb := t.gb, tb := t.tb, seq := t.seq }
  fb_keeps : ∀ P : Memory → Prop, (∀ x y c fb, P fb → P (setPixel s.h64 x y c fb)) → P (fbZero s.h64) → P s.fb → P t.fb
  gb_length : s.gb.length = 8 → t.gb.length = 8
  tb_length : s.tb.length = 8 → t.tb.length = 8

theorem Drawn.ofFb (s : State) (fb : Memory)
    (h : ∀ P : Memory → Prop, (∀ x y c fb, P fb → P (setPixel s.h64 x y c fb)) → P (fbZero s.h64) → P s.fb → P fb) :
    Drawn s (s.withFb fb) where
  frame := rfl
  fb_keeps := h
  gb_length := id
  tb_length := id

theorem Drawn.ofChar (font : Font) (x y : Int) (c : Byte) (s : State) : Drawn s (drawChar font x y c s) where
  frame := by cases font <;> rfl
  fb_keeps := by intro P hP _ h; rw [drawChar_fb]; exact blit_keeps P _ _ _ _ _ _ hP h
  gb_length := drawChar_gb_length font x y c s
  tb_length := drawChar_tb_length font x y c s

theorem Drawn.ofString (font : Font) (x y : Int) (n : Nat) (ptr : BitVec 32) (s : State) :
    Drawn s (drawString font x y n ptr s) where
  frame := by rw [drawString_frame]
  fb_keeps := by
    intro P hP hz h
    refine (drawString_keeps (fun t => t.h64 = s.h64 ∧ P t.fb) font x y ptr s n ⟨rfl, h⟩ ?_).2
    rintro k t ⟨ht, hPt⟩
    have hc := Drawn.ofChar font t.cur.x y (textByte t ptr k) (t.withSeq { t.seq with k := k })
    refine ⟨?_, hc.fb_keeps P (by simpa [ht] using hP) (by simpa [ht] using hz) hPt⟩
    show (drawChar font t.cur.x y (textByte t ptr k) (t.withSeq { t.seq with k := k })).h64 = s.h64
    rw [drawChar_frame]; exact ht
  gb_length h := drawString_keeps (fun t => t.gb.length = 8) font x y ptr s n h fun k t ht =>
    drawChar_gb_length font _ y _ (t.withSeq { t.seq with k := k }) ht
  tb_length h := drawString_keeps (fun t => t.tb.length = 8) font x y ptr s n h fun k t ht =>
    drawChar_tb_length font _ y _ (t.withSeq { t.seq with k := k }) ht

/-- Every drawing operation, and CLRBUF, draws and completes with `OK` (R230). -/
theorem exec_drawing (i : Instr) (s : State) (h : isDrawing i = true) :
    ∃ t, Drawn s t ∧ exec i s = .next (t.complete .ok) := by
  cases i
  case clrbuf => exact ⟨_, Drawn.ofFb s _ fun _ _ hz _ => hz, rfl⟩
  case setpixel => exact ⟨_, Drawn.ofFb s _ fun _ hP _ hs => hP _ _ _ _ hs, rfl⟩
  case drawbitmap => exact ⟨_, Drawn.ofFb s _ fun P hP _ hs => drawBitmap_keeps P _ _ _ _ _ _ _ _ hP hs, rfl⟩
  case drawhline => exact ⟨_, Drawn.ofFb s _ fun P hP _ hs => hLine_keeps P _ _ _ _ _ _ hP hs, rfl⟩
  case drawvline => exact ⟨_, Drawn.ofFb s _ fun P hP _ hs => vLine_keeps P _ _ _ _ _ _ hP hs, rfl⟩
  case drawrect => exact ⟨_, Drawn.ofFb s _ fun P hP _ hs => drawRect_keeps P _ _ _ _ _ _ _ hP hs, rfl⟩
  case drawchar8 => exact ⟨_, Drawn.ofChar .f8 _ _ _ s, rfl⟩
  case drawchar6 => exact ⟨_, Drawn.ofChar .f6 _ _ _ s, rfl⟩
  case drawchar5 => exact ⟨_, Drawn.ofChar .f5 _ _ _ s, rfl⟩
  case drawstr8 => exact ⟨_, Drawn.ofString .f8 _ _ _ _ s, rfl⟩
  case drawstr6 => exact ⟨_, Drawn.ofString .f6 _ _ _ _ s, rfl⟩
  case drawstr5 => exact ⟨_, Drawn.ofString .f5 _ _ _ _ s, rfl⟩
  all_goals cases h

/-! ### Sending -/

/-- SETPOS, FLUSHPAGE, FLUSH and CLEAR: those that test `INITED` (R234). -/
def isGuarded : Instr → Bool
  | .setpos _ _ => true
  | .flushpage _ => true
  | .flush => true
  | .clear => true
  | _ => false

/-- The framebuffer a guarded operation sends from: CLEAR has zeroed it first (R151). -/
def sendsFrom (i : Instr) (s : State) : Memory :=
  match i with
  | .clear => fbZero s.h64
  | _ => s.fb

/-- A position payload the block can send, or a page of `fb`. -/
def isSendable (h64 : Bool) (fb : Memory) (m : BusMode × List Byte) : Prop :=
  (∃ p dc, p < 8 ∧ dc < 256 ∧ m = (.cmd, posPayload p dc)) ∨ ∃ p, p < pages h64 ∧ m = (.data, pageData fb p)

theorem isSendable_pageSends {chip : Chip} {h64 : Bool} {fb : Memory} {p : Nat} (hp : p < pages h64)
    {m : BusMode × List Byte} (hm : m ∈ pageSends chip fb p) : isSendable h64 fb m := by
  have h8 : pages h64 ≤ 8 := by cases h64 <;> decide
  unfold pageSends at hm
  cases chip
  · exact .inr ⟨p, hp, by simpa [flushStrategy] using hm⟩
  · simp only [flushStrategy, List.mem_cons, List.not_mem_nil, or_false] at hm
    rcases hm with rfl | rfl
    · exact .inl ⟨p, 2, by omega, by decide, rfl⟩
    · exact .inr ⟨p, hp, rfl⟩

/-- A guarded operation either completes without a message, with `OK` or `ERR_NOTINIT`, or sends messages of the
framebuffer it sends from and completes by their answers. -/
theorem exec_guarded (i : Instr) (s : State) (h : isGuarded i = true) :
    (∃ st, (st = .ok ∨ st = .errNotInit) ∧ exec i s = .next ((s.withFb (sendsFrom i s)).complete st)) ∨
    ∃ ms p, Sent (s.withFb (sendsFrom i s)) ms p ∧ (∀ m ∈ ms, isSendable s.h64 (sendsFrom i s) m) ∧
      exec i s = .next p.finish := by
  cases i
  case setpos x y =>
    cases hi : s.inited
    · exact .inl ⟨.errNotInit, .inr rfl, by simp [exec, execSetpos, hi, Cause.status]; rfl⟩
    · cases hr : posInRange s.h64 (signed x) (signed y)
      · exact .inl ⟨.ok, .inl rfl, by simp [exec, execSetpos, hi, hr]; rfl⟩
      · refine .inr ⟨[(.cmd, posPayload (signed y).toNat (deviceColumn s.chip (signed x).toNat))],
          Progress.send .cmd (posPayload (signed y).toNat (deviceColumn s.chip (signed x).toNat)) s,
          Sent.one s .cmd _ s.seq, ?_, by simp [exec, execSetpos, hi, hr]⟩
        intro m hm
        have h8 : pages s.h64 ≤ 8 := by cases s.h64 <;> decide
        have hr' := of_decide_eq_true hr
        simp only [Config.width] at hr'
        refine .inl ⟨(signed y).toNat, deviceColumn s.chip (signed x).toNat, by omega, ?_, by simpa using hm⟩
        have : colOff s.chip ≤ 2 := by cases s.chip <;> decide
        unfold deviceColumn
        omega
  case flushpage ch =>
    cases hi : s.inited
    · exact .inl ⟨.errNotInit, .inr rfl, by simp [exec, execFlushpage, hi, Cause.status]; rfl⟩
    · by_cases hp : ch.toNat < pages s.h64
      · exact .inr ⟨_, _, sent_sendPage ch.toNat s, fun m hm => isSendable_pageSends hp hm,
          by simp [exec, execFlushpage, hi, hp]⟩
      · exact .inl ⟨.ok, .inl rfl, by simp [exec, execFlushpage, hi, hp]; rfl⟩
  case flush =>
    cases hi : s.inited
    · exact .inl ⟨.errNotInit, .inr rfl, by simp [exec, execFlush, hi, Cause.status]; rfl⟩
    · refine .inr ⟨_, _, sent_sendPages (pages s.h64) s, ?_, by simp [exec, execFlush, hi]⟩
      intro m hm
      obtain ⟨p, hp, hmp⟩ := List.mem_flatMap.mp hm
      exact isSendable_pageSends (List.mem_range.mp hp) hmp
  case clear =>
    have hz : sendsFrom .clear s = fbZero s.h64 := rfl
    rw [hz]
    generalize hfb : fbZero s.h64 = fb
    cases hi : s.inited
    · exact .inl ⟨.errNotInit, .inr rfl, by simp [exec, execClear, hi, hfb, Cause.status]⟩
    · refine .inr ⟨_, _, sent_sendPages (pages s.h64) (s.withFb fb), ?_, by simp [exec, execClear, hi, hfb]⟩
      intro m hm
      obtain ⟨p, hp, hmp⟩ := List.mem_flatMap.mp hm
      exact isSendable_pageSends (List.mem_range.mp hp) hmp
  all_goals cases h

/-- INIT (R120). -/
theorem exec_init (s : State) :
    exec .init s = .next (((s.transmit .cmd (initPayload s)).withInited (initedOfAnswer (s.answerAt 0))).complete
      (statusOfAnswer (s.answerAt 0))) := rfl

/-- The four shapes cover every instruction. -/
theorem instr_cases (i : Instr) :
    i = .init ∨ isGuarded i = true ∨ isDrawing i = true ∨ i.port = .device := by
  cases i
  case init => exact .inl rfl
  all_goals first
    | exact .inr (.inr (.inr rfl))
    | exact .inr (.inr (.inl rfl))
    | exact .inr (.inl rfl)

end Sys2Proof.Machine
end

