-- ==== Sys2Proof/Laws/InitSeq.lean ====
section
/-! SUPPORT. Command payloads as the device parses them: what INIT sends is legal in every state, a position payload is its
three commands, and what a list of commands does to the device is read off its members. -/

namespace Sys2Proof.Machine

/-! ### `INIT_SEQ` -/

theorem initSeqOk_default (chip : Chip) (h64 : Bool) :
    initSeqOk chip h64 (encodeCommands (defaultInitSeq chip h64)) = true := by
  cases chip <;> cases h64 <;> decide +kernel

/-- The default is parsed back into the commands it is written as. -/
theorem parseCommands_default (chip : Chip) (h64 : Bool) :
    parseCommands (encodeCommands (defaultInitSeq chip h64)) = (defaultInitSeq chip h64, []) := by
  cases chip <;> cases h64 <;> decide +kernel

/-- What INIT sends meets R122 to R126 in every state. -/
theorem initPayload_legal (s : State) : initSeqOk s.chip s.h64 (initPayload s) = true := by
  unfold initPayload
  split
  · split
    · assumption
    · exact initSeqOk_default _ _
  · exact initSeqOk_default _ _

theorem initPayload_of_legal {s : State} {bs : List Byte} (h : s.initSeq = some bs)
    (hb : initSeqOk s.chip s.h64 bs = true) : initPayload s = bs := by
  simp [initPayload, h, hb]

theorem initPayload_of_none {s : State} (h : s.initSeq = none) :
    initPayload s = encodeCommands (defaultInitSeq s.chip s.h64) := by
  simp [initPayload, h]

/-- INIT's payload is commands and nothing else. -/
theorem parseCommands_initPayload (s : State) :
    (parseCommands (initPayload s)).2 = [] ∧ initCommandsOk s.chip s.h64 (parseCommands (initPayload s)).1 = true := by
  have h := initPayload_legal s
  rw [initSeqOk, Bool.and_eq_true, Bool.and_eq_true] at h
  exact ⟨by simpa using h.1.1, h.1.2⟩

/-- The multiplex-ratio argument of the variant gives `HEIGHT` driven rows (R203). -/
theorem drivenRows_muxratio (chip : Chip) (h64 : Bool) (d : Dev) :
    (d.command chip (.muxratio (muxArg h64))).drivenRows h64 = height h64 := by
  have h : (muxArg h64).toNat + 1 = height h64 := by cases h64 <;> decide
  simp [Dev.command, Dev.muxRatio, Dev.drivenRows, h]

/-- INIT's payload fits the one message (R33). -/
theorem initPayload_length (s : State) : (initPayload s).length ≤ Config.maxPayload := by
  have h := initPayload_legal s
  rw [initSeqOk, Bool.and_eq_true] at h
  exact of_decide_eq_true h.2

theorem initPayload_ne_nil (s : State) : initPayload s ≠ [] := by
  intro h
  have hc := (parseCommands_initPayload s).2
  rw [h] at hc
  cases hs : s.chip <;> cases hh : s.h64 <;> rw [hs, hh] at hc <;> exact absurd hc (by decide)

/-- What an initialisation sequence holds and what it ends with, by its parts (R123 to R126). -/
theorem initCommandsOk_parts {chip : Chip} {h64 : Bool} {cs : List Instr} (h : initCommandsOk chip h64 cs = true) :
    (∀ i ∈ cs, initCommandOk chip h64 i = true) ∧ initEveryVariant chip h64 cs = true ∧ cs.getLast? = some .dispon ∧
      (chip = .ssd1306 → .colrange 0x00 0x7F ∈ cs ∧ .pagerange 0x00 (lastPageArg h64) ∈ cs) := by
  simp only [initCommandsOk, Bool.and_eq_true, List.all_eq_true, decide_eq_true_eq] at h
  refine ⟨h.1.1.1, h.1.1.2, h.1.2, ?_⟩
  rintro rfl
  simpa using h.2

/-! ### Position payloads (R104) -/

theorem parseCommands_posPayload {page dc : Nat} (hp : page < 8) (hd : dc < 256) :
    parseCommands (posPayload page dc) = (posCommands page dc, []) := by
  have all : ∀ p : Fin 8, ∀ a b : Fin 16,
      parseCommands (encodeCommands [.setpage (BitVec.ofNat 3 p), .setcollo (BitVec.ofNat 4 a),
        .setcolhi (BitVec.ofNat 4 b)]) =
      ([.setpage (BitVec.ofNat 3 p), .setcollo (BitVec.ofNat 4 a), .setcolhi (BitVec.ofNat 4 b)], []) := by
    decide +kernel
  exact all ⟨page, hp⟩ ⟨dc % 16, by omega⟩ ⟨dc / 16, by omega⟩

namespace Dev

/-! ### Lists of commands -/

/-- What every command of a list keeps, the list keeps. -/
theorem foldl_command_keeps {chip : Chip} (P : Dev → Prop) (cs : List Instr) (d : Dev)
    (hk : ∀ i ∈ cs, ∀ e : Dev, P e → P (e.command chip i)) (hd : P d) : P (cs.foldl (fun d i => d.command chip i) d) := by
  induction cs generalizing d with
  | nil => exact hd
  | cons i cs ih =>
    exact ih _ (fun j hj => hk j (List.mem_cons_of_mem _ hj)) (hk i (List.mem_cons_self ..) d hd)

/-- What one command of a list brings about, and every command of the list keeps, holds after the list. -/
theorem foldl_command_establishes {chip : Chip} (P : Dev → Prop) (cs : List Instr) (d : Dev) (i : Instr) (hi : i ∈ cs)
    (he : ∀ e : Dev, P (e.command chip i)) (hk : ∀ j ∈ cs, ∀ e : Dev, P e → P (e.command chip j)) :
    P (cs.foldl (fun d i => d.command chip i) d) := by
  induction cs generalizing d with
  | nil => cases hi
  | cons j cs ih =>
    have hk' : ∀ k ∈ cs, ∀ e : Dev, P e → P (e.command chip k) := fun k h => hk k (List.mem_cons_of_mem _ h)
    rcases List.mem_cons.mp hi with rfl | h
    · exact foldl_command_keeps P cs _ hk' (he d)
    · exact ih _ h hk'

/-- What losing each command of a list keeps, losing the list keeps (R84). -/
theorem foldl_loseCommand_keeps {chip : Chip} (P : Dev → Prop) (cs : List Instr) (d : Dev)
    (hk : ∀ i ∈ cs, ∀ e : Dev, P e → P (e.loseCommand chip i)) (hd : P d) :
    P (cs.foldl (fun d i => d.loseCommand chip i) d) := by
  induction cs generalizing d with
  | nil => exact hd
  | cons i cs ih =>
    exact ih _ (fun j hj => hk j (List.mem_cons_of_mem _ hj)) (hk i (List.mem_cons_self ..) d hd)

/-- No message answered `ok` in command mode touches the device's memory (R200 to R218). -/
@[simp] theorem command_ram (chip : Chip) (i : Instr) (d : Dev) : (d.command chip i).ram = d.ram := by
  cases i <;> first | rfl | (simp only [command, setColLo, setColHi, setPage]; split <;> rfl)

@[simp] theorem command_inbox (chip : Chip) (i : Instr) (d : Dev) : (d.command chip i).inbox = d.inbox := by
  cases i <;> first | rfl | (simp only [command, setColLo, setColHi, setPage]; split <;> rfl)

@[simp] theorem loseCommand_ram (chip : Chip) (i : Instr) (d : Dev) : (d.loseCommand chip i).ram = d.ram := by
  cases i <;> rfl

@[simp] theorem loseCommand_inbox (chip : Chip) (i : Instr) (d : Dev) : (d.loseCommand chip i).inbox = d.inbox := by
  cases i <;> rfl

/-! ### The inbox between requests -/

theorem takeData_inbox (chip : Chip) (bs : List Byte) (d : Dev) : (d.takeData chip bs).inbox = d.inbox := by
  unfold takeData
  induction bs generalizing d with
  | nil => rfl
  | cons b bs ih =>
    refine (ih _).trans ?_
    simp only [dataByte, store, advance]
    repeat' split
    all_goals rfl

/-- A message whose command payload is commands and nothing else leaves an empty inbox empty. -/
theorem deliver_inbox {chip : Chip} {d : Dev} (e : Event) (hd : d.inbox = [])
    (hp : e.mode = .cmd → (parseCommands e.payload).2 = []) : (d.deliver chip e).inbox = [] := by
  unfold deliver
  split
  next hm => simpa [takeCmd, hd] using hp hm
  next => rw [takeData_inbox, hd]
  next =>
    unfold loseCmd
    exact foldl_loseCommand_keeps (fun e => e.inbox = []) _ d (fun i _ e he => by simpa using he) hd
  next => exact (takeData_inbox chip _ _).trans hd

end Dev

end Sys2Proof.Machine
end

