-- ==== Sys2Proof/Laws/PerInstr.lean ====
section
/-! SUPPORT. Statements made per instruction: `EncodeLength`, the number of bytes of an instruction's encoding, by its
format in spec/opcode_table.json (R90, R97, R102). -/

namespace Sys2Proof.Laws.EncodeLength

/-- The number of bytes the format of an instruction gives it: 16 for `REQ`, 1 to 3 for `C1` to `C3`. -/
def formatBytes : Instr → Nat
  | .init => 16
  | .setpos _ _ => 16
  | .flushpage _ => 16
  | .flush => 16
  | .clrbuf => 16
  | .clear => 16
  | .setpixel _ _ _ => 16
  | .drawbitmap _ _ _ _ _ => 16
  | .drawhline _ _ _ _ => 16
  | .drawvline _ _ _ _ => 16
  | .drawrect _ _ _ _ _ => 16
  | .drawchar8 _ _ _ => 16
  | .drawchar6 _ _ _ => 16
  | .drawchar5 _ _ _ => 16
  | .drawstr8 _ _ _ _ => 16
  | .drawstr6 _ _ _ _ => 16
  | .drawstr5 _ _ _ _ => 16
  | .setcollo _ => 1
  | .setcolhi _ => 1
  | .addrmode _ => 2
  | .colrange _ _ => 3
  | .pagerange _ _ => 3
  | .startline _ => 1
  | .contrast _ => 2
  | .chargepump _ => 2
  | .segremap _ => 1
  | .muxratio _ => 2
  | .dispoff => 1
  | .dispon => 1
  | .setpage _ => 1
  | .comscan _ => 1
  | .dispoffset _ => 2
  | .clockdiv _ => 2
  | .compins _ => 2
  | .vcomh _ => 2

/-- An instruction is encoded in as many bytes as its format has. -/
def Statement (i : Instr) : Prop := (encode i).length = formatBytes i

theorem init : Statement .init := bytesOfRequest_length _
theorem setpos (x y : BitVec 16) : Statement (.setpos x y) := bytesOfRequest_length _
theorem flushpage (ch : BitVec 8) : Statement (.flushpage ch) := bytesOfRequest_length _
theorem flush : Statement .flush := bytesOfRequest_length _
theorem clrbuf : Statement .clrbuf := bytesOfRequest_length _
theorem clear : Statement .clear := bytesOfRequest_length _
theorem setpixel (color : Bool) (x y : BitVec 16) : Statement (.setpixel color x y) := bytesOfRequest_length _
theorem drawbitmap (x y w h : BitVec 16) (ptr : BitVec 32) : Statement (.drawbitmap x y w h ptr) := bytesOfRequest_length _
theorem drawhline (color : Bool) (x y w : BitVec 16) : Statement (.drawhline color x y w) := bytesOfRequest_length _
theorem drawvline (color : Bool) (x y w : BitVec 16) : Statement (.drawvline color x y w) := bytesOfRequest_length _
theorem drawrect (color : Bool) (x y w h : BitVec 16) : Statement (.drawrect color x y w h) := bytesOfRequest_length _
theorem drawchar8 (ch : BitVec 8) (x y : BitVec 16) : Statement (.drawchar8 ch x y) := bytesOfRequest_length _
theorem drawchar6 (ch : BitVec 8) (x y : BitVec 16) : Statement (.drawchar6 ch x y) := bytesOfRequest_length _
theorem drawchar5 (ch : BitVec 8) (x y : BitVec 16) : Statement (.drawchar5 ch x y) := bytesOfRequest_length _
theorem drawstr8 (x y w : BitVec 16) (ptr : BitVec 32) : Statement (.drawstr8 x y w ptr) := bytesOfRequest_length _
theorem drawstr6 (x y w : BitVec 16) (ptr : BitVec 32) : Statement (.drawstr6 x y w ptr) := bytesOfRequest_length _
theorem drawstr5 (x y w : BitVec 16) (ptr : BitVec 32) : Statement (.drawstr5 x y w ptr) := bytesOfRequest_length _
theorem setcollo (n : BitVec 4) : Statement (.setcollo n) := rfl
theorem setcolhi (n : BitVec 4) : Statement (.setcolhi n) := rfl
theorem addrmode (a : Byte) : Statement (.addrmode a) := rfl
theorem colrange (lo hi : Byte) : Statement (.colrange lo hi) := rfl
theorem pagerange (lo hi : Byte) : Statement (.pagerange lo hi) := rfl
theorem startline (l : BitVec 6) : Statement (.startline l) := rfl
theorem contrast (a : Byte) : Statement (.contrast a) := rfl
theorem chargepump (a : Byte) : Statement (.chargepump a) := rfl
theorem segremap (r : Bool) : Statement (.segremap r) := rfl
theorem muxratio (a : Byte) : Statement (.muxratio a) := rfl
theorem dispoff : Statement .dispoff := rfl
theorem dispon : Statement .dispon := rfl
theorem setpage (p : BitVec 3) : Statement (.setpage p) := rfl
theorem comscan (d : Bool) : Statement (.comscan d) := rfl
theorem dispoffset (a : Byte) : Statement (.dispoffset a) := rfl
theorem clockdiv (a : Byte) : Statement (.clockdiv a) := rfl
theorem compins (a : Byte) : Statement (.compins a) := rfl
theorem vcomh (a : Byte) : Statement (.vcomh a) := rfl

end Sys2Proof.Laws.EncodeLength
end

