-- ==== Sys2Proof/Tests/Slice0.lean ====
section
/-! SUPPORT. Tests: the checks of WellFormed refusing ill-formed records; decoding of words written out from the spec's
encodings; the worked examples and vectors of spec/95_test_vectors.md (the id stands in each comment); and for every
obligation that has hypotheses a concrete state and operands that meet them. -/

namespace Sys2Proof.Tests

set_option Elab.async false -- one theorem at a time: many at once take more memory than the check allows

open Sys2Proof Sys2Proof.Machine

/-! ### Helpers -/

/-- What `f` reads off the next state, if there is one. -/
def after {α : Type} (o : Host.Outcome State Fault Refusal) (f : State → α) : Option α :=
  match o with
  | .next t => some (f t)
  | .fault _ => none
  | .refused _ => none

/-- A machine after reset with the given framebuffer. -/
def blank (chip : Chip) (h64 : Bool) (fb : Memory) : State := { State.resetWith chip h64 with fb := fb }

/-- A machine whose INIT has succeeded, with the answers the transport will give next. -/
def ready (chip : Chip) (h64 : Bool) (answers : List Answer) : State :=
  { State.resetWith chip h64 with inited := true, fb := fbZero h64, answers := answers }

/-- `n` framebuffer bytes from column `c` of page `p` on. -/
def row (p c n : Nat) (s : State) : List Byte := (List.range n).map fun k => fbByte s.fb p (c + k)

/-- The mode and payload of each event of the trace. -/
def messages (s : State) : List (BusMode × List Byte) := s.trace.map fun e => (e.mode, e.payload)

/-- The mode, the length and the first three bytes of each payload of the trace. -/
def heads (s : State) : List (BusMode × Nat × List Byte) :=
  s.trace.map fun e => (e.mode, e.payload.length, e.payload.take 3)

/-- Memory cells of consecutive bytes. -/
def cells (a : Nat) (bs : List Byte) : Memory := (List.range bs.length).map fun k => (a + k, bs.getD k 0)

/-- The assumed glyph entries of 95_test_vectors.md: 'A', 'B' of `G8`, 'I' of `G6`, '!' of `G5`, and the spaces. -/
def withGlyphs (s : State) : State :=
  { s with
    g8 := cells 0 [0, 0, 0, 0, 0, 0, 0, 0] ++ cells (33 * 8) [0x0C, 0x1E, 0x33, 0x33, 0x3F, 0x33, 0x33, 0x00] ++
      cells (34 * 8) [0x3F, 0x66, 0x66, 0x3E, 0x66, 0x66, 0x3F, 0x00]
    g6 := cells 0 [0, 0, 0, 0, 0, 0] ++ cells (41 * 6) [0x00, 0x41, 0x7F, 0x41, 0x00, 0x00]
    g5 := cells 0 [0, 0, 0, 0, 0] ++ cells 5 [0x00, 0x00, 0x5F, 0x00, 0x00] }

/-! ### WellFormed refuses ill-formed records -/

theorem test_variant_height_refused :
    DisplayVariant.wellFormed ⟨.ssd1306, 48, 0, .horizontal, .single⟩ = false := by decide

theorem test_variant_offset_refused :
    DisplayVariant.wellFormed ⟨.sh1106, 64, 0, .page, .split⟩ = false := by decide

theorem test_variant_mode_refused :
    DisplayVariant.wellFormed ⟨.sh1106, 32, 2, .horizontal, .split⟩ = false := by decide

theorem test_variant_strategy_refused :
    DisplayVariant.wellFormed ⟨.ssd1306, 32, 0, .horizontal, .split⟩ = false := by decide

theorem test_empty_message_refused : Event.wellFormed ⟨.cmd, [], .ok⟩ = false := by decide

theorem test_long_message_refused : Event.wellFormed ⟨.cmd, List.replicate 129 0xAF, .ok⟩ = false := by decide +kernel

theorem test_short_data_message_refused : Event.wellFormed ⟨.data, [0x00], .ok⟩ = false := by decide

/-! ### Decoding words written out from 30_encoding.md and 44_device_commands.md -/

/-- R92, R93: the DisplayController's requests. -/
theorem test_decode_controller :
    decode .request [0x00, 0, 0, 0, 0, 0, 0, 0, 0, 0, 0, 0, 0, 0, 0, 0] = .ok (.init, []) ∧
    decode .request [0x01, 0, 0x0A, 0, 0x03, 0, 0, 0, 0, 0, 0, 0, 0, 0, 0, 0] = .ok (.setpos 10 3, []) ∧
    decode .request [0x02, 0x09, 0, 0, 0, 0, 0, 0, 0, 0, 0, 0, 0, 0, 0, 0] = .ok (.flushpage 9, []) ∧
    decode .request [0x03, 0, 0, 0, 0, 0, 0, 0, 0, 0, 0, 0, 0, 0, 0, 0] = .ok (.flush, []) := by decide

/-- R92, R93 and V2, V3: the framebuffer operations. -/
theorem test_decode_framebuffer :
    decode .request [0x04, 0, 0, 0, 0, 0, 0, 0, 0, 0, 0, 0, 0, 0, 0, 0] = .ok (.clrbuf, []) ∧
    decode .request [0x05, 0, 0, 0, 0, 0, 0, 0, 0, 0, 0, 0, 0, 0, 0, 0] = .ok (.clear, []) ∧
    decode .request [0x86, 0, 5, 0, 0x0A, 0, 0, 0, 0, 0, 0, 0, 0, 0, 0, 0] = .ok (.setpixel true 5 10, []) := by decide

/-- V6, T4, P4, T5: the rasteriser's requests. -/
theorem test_decode_rasteriser :
    decode .request [0x07, 0, 0xFE, 0xFF, 0xFC, 0xFF, 4, 0, 0x0A, 0, 0, 0x30, 0, 0, 0, 0] =
      .ok (.drawbitmap 0xFFFE 0xFFFC 4 10 0x3000, []) ∧
    decode .request [0x88, 0, 0x78, 0, 0, 0, 0x14, 0, 0, 0, 0, 0, 0, 0, 0, 0] = .ok (.drawhline true 120 0 20, []) ∧
    decode .request [0x89, 0, 0x40, 0, 0x3C, 0, 0x0A, 0, 0, 0, 0, 0, 0, 0, 0, 0] =
      .ok (.drawvline true 64 60 10, []) ∧
    decode .request [0x8A, 0, 0, 0, 0, 0, 0x0A, 0, 5, 0, 0, 0, 0, 0, 0, 0] = .ok (.drawrect true 0 0 10 5, []) := by
  decide

/-- R92, R93, T6, P3, P4: the glyph renderer's requests. -/
theorem test_decode_glyphs :
    decode .request [0x0B, 0x41, 0, 0, 4, 0, 0, 0, 0, 0, 0, 0, 0, 0, 0, 0] = .ok (.drawchar8 0x41 0 4, []) ∧
    decode .request [0x0C, 0x49, 0x0A, 0, 8, 0, 0, 0, 0, 0, 0, 0, 0, 0, 0, 0] = .ok (.drawchar6 0x49 10 8, []) ∧
    decode .request [0x0D, 0x21, 0, 0, 0, 0, 0, 0, 0, 0, 0, 0, 0, 0, 0, 0] = .ok (.drawchar5 0x21 0 0, []) ∧
    decode .request [0x0E, 0, 0, 0, 0, 0, 2, 0, 0, 0, 0, 0x20, 0, 0, 0, 0] = .ok (.drawstr8 0 0 2 0x2000, []) ∧
    decode .request [0x0F, 0, 0x72, 0, 0x38, 0, 4, 0, 0, 0, 0, 0x31, 0, 0, 0, 0] =
      .ok (.drawstr6 114 56 4 0x3100, []) ∧
    decode .request [0x10, 0, 2, 0, 8, 0, 2, 0, 0, 0, 0, 0x20, 0, 0, 0, 0] = .ok (.drawstr5 2 8 2 0x2000, []) := by
  decide

/-- R95, V7, V8: reserved operation codes by name; bits 6:5 select nothing; a short word is no request. -/
theorem test_decode_reserved :
    decode .request [0x11, 0, 0, 0, 0, 0, 0, 0, 0, 0, 0, 0, 0, 0, 0, 0] = .error (.reservedOp 0x11) ∧
    decode .request [0x91, 0xFF, 0xFF, 0xFF, 0xFF, 0xFF, 0xFF, 0xFF, 0xFF, 0xFF, 0xFF, 0xFF, 0xFF, 0xFF, 0xFF, 0xFF] =
      .error (.reservedOp 0x11) ∧
    decode .request [0x20, 0, 0, 0, 0, 0, 0, 0, 0, 0, 0, 0, 0, 0, 0, 0] = .ok (.init, []) ∧
    decode .request [0x00] = .error .shortRequest := by decide

/-- R103, R200: the commands with a field in the opcode byte. -/
theorem test_decode_field_commands :
    decode .device [0b00000010] = .ok (.setcollo 2, []) ∧ decode .device [0b00011000] = .ok (.setcolhi 8, []) ∧
    decode .device [0b01111111] = .ok (.startline 63, []) ∧ decode .device [0b10110101] = .ok (.setpage 5, []) ∧
    decode .device [0xA0] = .ok (.segremap false, []) ∧ decode .device [0xA1] = .ok (.segremap true, []) ∧
    decode .device [0xC0] = .ok (.comscan false, []) ∧ decode .device [0xC8] = .ok (.comscan true, []) := by decide

/-- R200: the commands of fixed opcode bytes, arguments taken as arguments. -/
theorem test_decode_fixed_commands :
    decode .device [0x20, 0x02] = .ok (.addrmode 2, []) ∧
    decode .device [0x21, 0x00, 0x7F] = .ok (.colrange 0x00 0x7F, []) ∧
    decode .device [0x22, 0x00, 0x07] = .ok (.pagerange 0x00 0x07, []) ∧
    decode .device [0x81, 0x7F] = .ok (.contrast 0x7F, []) ∧ decode .device [0x8D, 0x14] = .ok (.chargepump 0x14, []) ∧
    decode .device [0xA8, 0x3F] = .ok (.muxratio 0x3F, []) := by decide

/-- R200: the same, opcodes from 0xAE on. -/
theorem test_decode_fixed_commands_high :
    decode .device [0xAE] = .ok (.dispoff, []) ∧
    decode .device [0xAF] = .ok (.dispon, []) ∧ decode .device [0xD3, 0x00] = .ok (.dispoffset 0, []) ∧
    decode .device [0xD5, 0x80] = .ok (.clockdiv 0x80, []) ∧ decode .device [0xDA, 0x12] = .ok (.compins 0x12, []) ∧
    decode .device [0xDB, 0x40] = .ok (.vcomh 0x40, []) := by decide

/-- R200: what is no command, and a command cut short, by name. -/
theorem test_decode_rejects_by_name :
    decode .device [0xE3] = .error (.unknownCommand 0xE3) ∧ decode .device [0x21, 0x00] = .error (.cutShort 0x21) ∧
    decode .device [] = .error .noByte := by decide

/-- V67: the SH1106 sequence parses into 13 commands of lengths 1 2 2 1 2 2 2 2 2 2 1 1 1. -/
theorem test_parse_init_sequence :
    (parseCommands [0xAE, 0xA8, 0x3F, 0xD3, 0x00, 0x40, 0x81, 0x7F, 0xD5, 0x80, 0xDB, 0x40, 0x8D, 0x14, 0x20, 0x02, 0xDA,
      0x12, 0xA1, 0xC8, 0xAF]).1.map (fun i => (encode i).length) = [1, 2, 2, 1, 2, 2, 2, 2, 2, 2, 1, 1, 1] := by
  decide +kernel

/-- R98: encoding assembles the request of V6. -/
theorem test_encode_request :
    encode (.drawbitmap 0xFFFE 0xFFFC 4 10 0x3000) =
      [0x07, 0, 0xFE, 0xFF, 0xFC, 0xFF, 4, 0, 0x0A, 0, 0, 0x30, 0, 0, 0, 0] := by decide

/-- The numbering of opcode_table.json: a command's first byte highest. -/
theorem test_table_words :
    decodeTableWord 128 0x3000000A0004FFFCFFFE0007 = some (.drawbitmap 0xFFFE 0xFFFC 4 10 0x3000) ∧
    decodeTableWord 8 0x03 = some .flush ∧ decodeTableWord 8 0xB5 = some (.setpage 5) ∧
    decodeTableWord 8 0x18 = some (.setcolhi 8) ∧ decodeTableWord 16 0x2002 = some (.addrmode 2) ∧
    decodeTableWord 24 0x21007F = some (.colrange 0x00 0x7F) ∧ decodeTableWord 8 0xE3 = none ∧
    decodeTableWord 128 0x1F = none := by decide

/-! ### Text (30_encoding.md R98, R99) -/

/-- Nothing placed yet; the next source address is 0x2000, as in P2. -/
def emptyAssembly : Assembly := { names := [], src := [], free := 0x2000 }

/-- The program of P1, comments and all. -/
theorem test_assemble_program :
    (assemble emptyAssembly ["INIT                        ; 00 00".toList, "CLEAR".toList,
      "DRAWRECT  0, 0, 10, 5, 1    ; 8A 00".toList, "DRAWHLINE 120, 0, 20, 1".toList, "FLUSH".toList]).map (·.2) =
      some [.init, .clear, .drawrect true 0 0 10 5, .drawhline true 120 0 20, .flush] := by decide +kernel

/-- P2's DRAWSTRING places its text; P3's DRAWCHAR; P4's DRAWBITMAP. -/
theorem test_assemble_pseudo :
    assemble emptyAssembly ["DRAWSTRING 8x8, 0, 0, \"AB\"".toList, "DRAWCHAR 5x8, 0, 0, '!'".toList,
      "DRAWBITMAP -2, -4, 4, 10, @0x3000".toList] =
      some ({ names := [], src := [(0x2000, 0x41), (0x2001, 0x42)], free := 0x2002 },
        [.drawstr8 0 0 2 0x2000, .drawchar5 0x21 0 0, .drawbitmap 0xFFFE 0xFFFC 4 10 0x3000]) := by decide +kernel

/-- `.bytes` names source bytes; a value that fits no field does not assemble. -/
theorem test_assemble_bytes :
    (assemble emptyAssembly [".bytes t: 0x41, 0, 'B'".toList, "DRAWSTR8 0, 0, @t, 3".toList]).map (·.2) =
      some [.drawstr8 0 0 3 0x2000] ∧
    assembleLine emptyAssembly "SETPIXEL 40000, 0, 1".toList = none := by decide +kernel

/-- R98: a pointer is `@name` or `@0x...`, so `@100` is a name; here it is one that nothing defines, then one given twice. -/
theorem test_assemble_pointer :
    assembleLine emptyAssembly "DRAWSTR8 0, 0, @100, 1".toList = none ∧
    (assemble emptyAssembly [".bytes 100: 1".toList, ".bytes 100: 2".toList, "DRAWSTR8 0, 0, @100, 1".toList]).map (·.2) =
      some [.drawstr8 0 0 1 0x2001] := by decide +kernel

/-- A name is known to later lines only (log entry 17). -/
theorem test_assemble_forward_name :
    assemble emptyAssembly ["DRAWSTR8 0, 0, @t, 1".toList, ".bytes t: 1".toList] = none := by decide +kernel

/-- A character whose code is above 255 has no byte. -/
theorem test_assemble_wide_character :
    (assembleLine emptyAssembly ("DRAWCHAR8 0, 0, '".toList ++ [Char.ofNat 255, singleQuote])).map (·.2) =
      some (some (.drawchar8 255 0 0)) ∧
    assembleLine emptyAssembly ("DRAWCHAR8 0, 0, '".toList ++ [Char.ofNat 256, singleQuote]) = none := by decide +kernel

/-- A program in text reaches the request port and its first request runs. -/
theorem test_load_text :
    after (step (loadText 0 ["SETPIXEL 0, 0, 1".toList, "FLUSH".toList] (blank .ssd1306 true [(0, 0x00)])))
      (fun t => (row 0 0 1 t, t.requests)) = some ([0x01], [0x03]) := by decide +kernel

/-! ### Stepping -/

/-- A request placed at the port is the next step's instruction (V75: drawing before INIT). -/
theorem test_step_runs_placed_request :
    after (step ((blank .ssd1306 true [(1, 0x00)]).withFetchWord 128 0x000100010086)) (fun t => (row 0 1 1 t, t.status)) =
      some ([0x02], .ok) := by decide +kernel

/-- A command placed at the device is the next step's instruction (R205). -/
theorem test_step_runs_placed_command :
    after (step (State.reset.withFetchWord 16 0x2002)) (fun t => (t.dev.mode, t.dev.inbox)) = some (.page, []) := by
  decide

/-- V74: a reserved code is `ERR_ILLEGAL` before the `INITED` test. -/
theorem test_reserved_request :
    after (step { State.reset with requests := [0x11] }) (fun t => (t.status.code, t.trace, t.requests)) =
      some (3, [], []) := by decide

/-- R32: a request presented while `BUSY` is 1 stays where it is. -/
theorem test_busy_accepts_nothing :
    after (step { State.reset with requests := [0x04], busy := true }) (fun t => t.requests) = some [0x04] := by decide

/-- Bytes at the device that are no command stop by name. -/
theorem test_unknown_command_refused :
    (match step { State.reset with dev := { Dev.reset with inbox := [0xE3] } } with
      | .refused (.unknownCommand b) => some b
      | _ => none) = some 0xE3 := by decide

/-- A cut command at the device stops by name. -/
theorem test_cut_command_faults :
    (match step { State.reset with dev := { Dev.reset with inbox := [0x81] } } with
      | .fault (.commandCutShort b) => some b
      | _ => none) = some 0x81 := by decide

/-- V70. -/
theorem test_reset :
    State.reset.inited = false ∧ State.reset.status.code = 0 ∧ State.reset.busy = false ∧ State.reset.trace = [] := by
  decide

/-! ### DisplayController -/

/-- V12. -/
theorem test_init_sh1106 :
    after (exec .init { blank .sh1106 true [] with answers := [.ok] }) (fun t => (t.inited, t.status, messages t)) =
      some (true, .ok, [(.cmd, [0xAE, 0xA8, 0x3F, 0xD3, 0x00, 0x40, 0x81, 0x7F, 0xD5, 0x80, 0xDB, 0x40, 0x8D, 0x14, 0x20,
        0x02, 0xDA, 0x12, 0xA1, 0xC8, 0xAF])]) := by decide +kernel

/-- V72, P3: a failed INIT clears `INITED`; the sequence of V11 was sent. -/
theorem test_init_fails :
    after (exec .init { ready .ssd1306 false [.fail] with inited := true }) (fun t => (t.inited, t.status.code, messages t)) =
      some (false, 1, [(.cmd, [0xA8, 0x1F, 0x8D, 0x14, 0x20, 0x00, 0x21, 0x00, 0x7F, 0x22, 0x00, 0x03, 0xDA, 0x02, 0xA1,
        0xC8, 0xAF])]) := by decide +kernel

/-- R127: a list that breaks R122 to R126 (here ADDRMODE 0 then 2 after a legal sequence) is no INIT_SEQ. -/
theorem test_init_ignores_illegal_parameter :
    after (exec .init { blank .ssd1306 false [] with
        answers := [.ok], initSeq := some [0xA8, 0x1F, 0x8D, 0x14, 0x20, 0x00, 0x21, 0x00, 0x7F, 0x22, 0x00, 0x03, 0xDA, 0x02,
          0xA1, 0xC8, 0x20, 0x02, 0xAF] }) messages =
      some [(.cmd, [0xA8, 0x1F, 0x8D, 0x14, 0x20, 0x00, 0x21, 0x00, 0x7F, 0x22, 0x00, 0x03, 0xDA, 0x02, 0xA1, 0xC8, 0xAF])] := by
  decide +kernel

/-- R260, R261: a reset of the block alone leaves the device as it was. -/
theorem test_reset_of_the_block :
    let s := { ready .sh1106 true [] with dev := { Dev.reset with mode := .page, pg := 5, ram := [(0, 0x41)] } }
    let t := s.resetBlock .ssd1306 false []
    t.inited = false ∧ t.chip = .ssd1306 ∧ t.dev.pg = 5 ∧ devByte t.dev.ram 0 0 = 0x41 := by decide

/-- V18. -/
theorem test_setpos_sh1106 :
    after (exec (.setpos 127 7) (ready .sh1106 true [.ok])) (fun t => (t.status, messages t)) =
      some (.ok, [(.cmd, [0xB7, 0x01, 0x18])]) := by decide +kernel

/-- V19a. -/
theorem test_setpos_needs_init :
    after (exec (.setpos 128 0) (blank .ssd1306 true [])) (fun t => (t.status.code, t.trace)) = some (2, []) := by decide

/-- V28. -/
theorem test_flushpage_sh1106 :
    after (exec (.flushpage 2) (ready .sh1106 false [.ok, .ok])) heads =
      some [(.cmd, 3, [0xB2, 0x02, 0x10]), (.data, 128, [0, 0, 0])] := by decide +kernel

/-- V65: page 2's bytes land in device page 0; the pointer stands at (1, 0). -/
theorem test_flushpage_ssd1306_lands_on_page_zero :
    after (exec (.flushpage 2)
        { ready .ssd1306 true [.ok] with
          fb := (List.range 128).map (fun c => (256 + c, BitVec.ofNat 8 c))
          dev := { Dev.reset with mode := .horizontal, colEnd := 127, pgEnd := 7 } })
      (fun t => (devByte t.dev.ram 0 0, devByte t.dev.ram 0 127, t.dev.pg, t.dev.col)) =
      some (0x00, 0x7F, 1, 0) := by decide +kernel

/-- V25. -/
theorem test_flush_aborts :
    after (exec .flush (ready .sh1106 false [.ok, .ok, .fail])) (fun t => (t.status.code, heads t)) =
      some (1, [(.cmd, 3, [0xB0, 0x02, 0x10]), (.data, 128, [0, 0, 0]), (.cmd, 3, [0xB1, 0x02, 0x10])]) := by decide +kernel

/-- V20. -/
theorem test_flush_ssd1306 :
    after (exec .flush (ready .ssd1306 false [.ok, .ok, .ok, .ok])) (fun t => (t.status, heads t)) =
      some (.ok, List.replicate 4 (.data, 128, [0, 0, 0])) := by decide +kernel

/-! ### Framebuffer -/

/-- V39. -/
theorem test_clrbuf :
    after (exec .clrbuf (blank .ssd1306 false [])) (fun t => (row 0 0 2 t, row 3 126 2 t, t.status, t.trace)) =
      some ([0, 0], [0, 0], .ok, []) := by decide +kernel

/-- V40. -/
theorem test_clear_before_init :
    after (exec .clear (blank .sh1106 false [(0, 0xFF)])) (fun t => (row 0 0 2 t, t.status.code, t.trace)) =
      some ([0, 0], 2, []) := by decide +kernel

/-- V41. -/
theorem test_clear_aborts :
    after (exec .clear { ready .ssd1306 true [.ok, .fail] with fb := [(0, 0xFF)] })
      (fun t => (t.status.code, heads t)) =
      some (1, [(.data, 128, [0, 0, 0]), (.data, 128, [0, 0, 0])]) := by
  decide +kernel

/-- V34: one bit is set, the others stay. -/
theorem test_setpixel_sets :
    after (exec (.setpixel true 5 15) (blank .ssd1306 true [(133, 0x04)])) (row 1 5 1) = some [0x84] := by decide

/-- V35, and V38: at height 32 row 32 is off the display. -/
theorem test_setpixel_clears_and_drops :
    after (exec (.setpixel false 5 10) (blank .ssd1306 true [(133, 0x84)])) (row 1 5 1) = some [0x80] ∧
    after (exec (.setpixel true 0 32) (blank .ssd1306 false [(0, 0x11)])) (fun t => t.fb) = some [(0, 0x11)] := by decide

/-! ### Rasteriser -/

/-- V49m: a bitmap partly off the display. -/
theorem test_drawbitmap_clipped :
    after (exec (.drawbitmap 0xFFFE 0xFFFC 4 10 0x3000)
        { blank .sh1106 true (fbZero true) with src := cells 0x3000 [0xFF, 0x81, 0x81, 0xFF, 0x03, 0x02, 0x02, 0x03] })
      (row 0 0 3) = some [0x28, 0x3F, 0x00] := by decide +kernel

/-- V49p: the source address wraps. -/
theorem test_drawbitmap_wraps :
    after (exec (.drawbitmap 0 0 2 1 0xFFFFFFFF)
        { blank .ssd1306 false (fbZero false) with src := [(0, 0x01), (0xFFFFFFFF, 0x00)] })
      (row 0 0 2) = some [0x00, 0x01] := by decide +kernel

/-- V42. -/
theorem test_drawhline_left_edge :
    after (exec (.drawhline true 0xFFFB 0 10) (blank .ssd1306 false (fbZero false))) (row 0 0 6) =
      some [0x01, 0x01, 0x01, 0x01, 0x01, 0x00] := by decide +kernel

/-- T4. -/
theorem test_drawhline_clips :
    after (exec (.drawhline true 120 0 20) (blank .ssd1306 false (fbZero false))) (fun t => (row 0 119 9 t, row 1 0 2 t)) =
      some ([0x00, 0x01, 0x01, 0x01, 0x01, 0x01, 0x01, 0x01, 0x01], [0x00, 0x00]) := by decide +kernel

/-- V47. -/
theorem test_drawvline_top_edge :
    after (exec (.drawvline true 0 0xFFFD 5) (blank .ssd1306 true [(0, 0x00)])) (row 0 0 1) = some [0x03] := by
  decide +kernel

/-- V49a: across a page boundary. -/
theorem test_drawvline_two_pages :
    after (exec (.drawvline true 3 6 4) (blank .ssd1306 false (fbZero false))) (fun t => (row 0 3 1 t, row 1 3 1 t)) =
      some ([0xC0], [0x03]) := by decide +kernel

/-- T5. -/
theorem test_drawrect_border :
    after (exec (.drawrect true 0 0 10 5) (blank .ssd1306 false (fbZero false))) (row 0 0 11) =
      some [0x1F, 0x11, 0x11, 0x11, 0x11, 0x11, 0x11, 0x11, 0x11, 0x1F, 0x00] := by decide +kernel

/-- V49h: two edges are off the display. -/
theorem test_drawrect_partly_off :
    after (exec (.drawrect true 0xFFFD 0xFFFD 6 6) (blank .ssd1306 false (fbZero false))) (row 0 0 4) =
      some [0x04, 0x04, 0x07, 0x00] := by decide +kernel

/-! ### Glyphs -/

/-- T3: the transposer on a glyph, and off 8×8. -/
theorem test_transpose :
    transpose [0x0C, 0x1E, 0x33, 0x33, 0x3F, 0x33, 0x33, 0x00] 8 8 = [0x7C, 0x7E, 0x13, 0x13, 0x7E, 0x7C, 0x00, 0x00] ∧
    transpose (List.replicate 8 0x1F) 5 8 = List.replicate 5 0xFF := by decide

/-- T13. -/
theorem test_glyph_index :
    [31, 32, 33, 127, 128, 0, 255].map (fun n => glyphIndex (BitVec.ofNat 8 n)) = [0, 0, 1, 95, 0, 0, 0] := by decide

/-- V50a. -/
theorem test_drawchar8_straddles :
    after (exec (.drawchar8 0x41 0 4) (withGlyphs (blank .ssd1306 false (fbZero false))))
      (fun t => (row 0 0 6 t, row 1 0 6 t)) =
      some ([0xC0, 0xE0, 0x30, 0x30, 0xE0, 0xC0], [0x07, 0x07, 0x01, 0x01, 0x07, 0x07]) := by decide +kernel

/-- V50f: code 0 draws a space, opaquely. -/
theorem test_drawchar8_space :
    after (exec (.drawchar8 0x00 0 0) (withGlyphs (blank .ssd1306 false (cells 0 (List.replicate 9 0xFF))))) (row 0 0 9) =
      some [0x00, 0x00, 0x00, 0x00, 0x00, 0x00, 0x00, 0x00, 0xFF] := by decide +kernel

/-- V50c. -/
theorem test_drawchar6 :
    after (exec (.drawchar6 0x49 10 8) (withGlyphs (blank .ssd1306 false (fbZero false)))) (row 1 10 6) =
      some [0x00, 0x41, 0x7F, 0x41, 0x00, 0x00] := by decide +kernel

/-- V50d. -/
theorem test_drawchar5 :
    after (exec (.drawchar5 0x21 0 0) (withGlyphs (blank .ssd1306 false (fbZero false)))) (row 0 0 5) =
      some [0x00, 0x00, 0x5F, 0x00, 0x00] := by decide +kernel

/-- V56: a zero byte of the text draws a space and advances. -/
theorem test_drawstr8 :
    after (exec (.drawstr8 0 0 3 0x2000)
        { withGlyphs (blank .ssd1306 false (fbZero false)) with src := cells 0x2000 [0x41, 0x00, 0x42] })
      (fun t => (row 0 0 8 t, row 0 8 8 t, row 0 16 7 t, t.cur)) =
      some ([0x7C, 0x7E, 0x13, 0x13, 0x7E, 0x7C, 0x00, 0x00], List.replicate 8 0x00,
        [0x41, 0x7F, 0x7F, 0x49, 0x49, 0x7F, 0x36], ⟨24, 0⟩) := by decide +kernel

/-- V52: the spacing columns are not written. -/
theorem test_drawstr6 :
    after (exec (.drawstr6 0 0 3 0x2000)
        { withGlyphs (blank .ssd1306 false (cells 0 (List.replicate 22 0xFF))) with
          src := cells 0x2000 [0x49, 0x49, 0x49] })
      (row 0 0 22) =
      some [0x00, 0x41, 0x7F, 0x41, 0x00, 0x00, 0xFF, 0x00, 0x41, 0x7F, 0x41, 0x00, 0x00, 0xFF, 0x00, 0x41, 0x7F, 0x41,
        0x00, 0x00, 0xFF, 0xFF] := by decide +kernel

/-- V53, with its last two characters only: the string runs off the right edge and the cursor goes on. -/
theorem test_drawstr5 :
    after (exec (.drawstr5 120 0 2 0x2000)
        { withGlyphs (blank .ssd1306 false (cells 120 (List.replicate 8 0xFF))) with src := cells 0x2000 [0x21, 0x21] })
      (fun t => (row 0 120 8 t, t.cur)) =
      some ([0x00, 0x00, 0x5F, 0x00, 0x00, 0xFF, 0x00, 0x00], ⟨132, 0⟩) := by decide +kernel

/-! ### Operand forms -/

/-- T11. -/
theorem test_pag :
    pag true 5 10 = some ⟨1, 5, 2⟩ ∧ pag true 127 63 = some ⟨7, 127, 7⟩ ∧ pag false 64 31 = some ⟨3, 64, 7⟩ ∧
    pag false 0 32 = none ∧ pag true (-1) 0 = none := by decide

/-- T12. -/
theorem test_byte_index : byteIndex 4 3 9 = 7 ∧ byteIndex 4 0 0 = 0 ∧ byteIndex 128 127 63 = 1023 := by decide

/-- V61, V62, V63. -/
theorem test_pos_payload :
    posPayload 3 2 = [0xB3, 0x02, 0x10] ∧ posPayload 7 129 = [0xB7, 0x01, 0x18] ∧
    posPayload 0 127 = [0xB0, 0x0F, 0x17] := by decide

/-- R101: one control byte before the payload. -/
theorem test_wire_image :
    wireImage .cmd [0xB3, 0x02, 0x10] = [0x00, 0xB3, 0x02, 0x10] ∧ (wireImage .data (List.replicate 128 0)).length = 129 := by
  decide +kernel

/-! ### Device commands -/

/-- R201 to R204, R208 to R215. -/
theorem test_setting_commands :
    after (exec .dispon State.reset) (fun t => t.dev.on) = some true ∧
    after (exec (.muxratio 0x3F) State.reset) (fun t => t.dev.drivenRows true) = some 64 ∧
    after (exec (.contrast 0x7F) State.reset) (fun t => t.dev.set.contrast) = some 0x7F ∧
    after (exec (.startline 63) State.reset) (fun t => t.dev.set.startLine) = some 63 := by decide

/-- R205: any other argument is no mode the mirror has rules for. -/
theorem test_addrmode_other :
    after (exec (.addrmode 0x01) State.reset) (fun t => t.dev.mode) = some .other := by decide

/-- R206, R207. -/
theorem test_ranges_move_the_pointer :
    after (exec (.colrange 3 0x7F) State.reset) (fun t => (t.dev.col, t.dev.colEnd)) = some (3, 127) ∧
    after (exec (.pagerange 2 7) State.reset) (fun t => (t.dev.pg, t.dev.pgEnd)) = some (2, 7) := by decide

/-- R216 to R218, in page mode. -/
theorem test_position_commands :
    after (exec (.setpage 5) { State.reset with dev := { Dev.reset with mode := .page } }) (fun t => t.dev.pg) = some 5 ∧
    after (exec (.setcollo 1) { State.reset with dev := { Dev.reset with mode := .page, col := 0x82 } })
      (fun t => t.dev.col) = some 0x81 ∧
    after (exec (.setcolhi 8) { State.reset with dev := { Dev.reset with mode := .page, col := 0x01 } })
      (fun t => t.dev.col) = some 0x81 := by decide

/-! ### Witnesses: for every obligation with hypotheses, states and operands that meet them, boundary values too -/

/-- An initialised SSD1306 of height 32 whose device stands ready for FLUSH, and a transport that answers `ok`. -/
def flushReady : State :=
  { ready .ssd1306 false (List.replicate 4 .ok) with
    dev := { Dev.reset with mode := .horizontal, colEnd := 127, pgEnd := 3 } }

/-- An initialised SH1106 of height 32 whose device is in page mode, and a transport that answers `ok`. -/
def pageReady : State :=
  { ready .sh1106 false (List.replicate 8 .ok) with dev := { Dev.reset with mode := .page } }

theorem witness_CommandBytesHaveOneReading :
    decodeCommand [0xB7, 0x01, 0x18] = .ok (.setpage 7, [0x01, 0x18]) ∧
    decodeCommand [0x22, 0xFF, 0x00] = .ok (.pagerange 0xFF 0x00, []) := by decide

/-- The last operation, the first and the last reserved code; every code, in a word all of whose other bits are 1. -/
theorem witness_RequestDecodingIsTotal :
    (reqOp 0x10#128).toNat ≤ 0x10 ∧ decodeRequest 0x10#128 = .ok (.drawstr5 0 0 0 0) ∧
    0x11 ≤ (reqOp 0x11#128).toNat ∧ 0x11 ≤ (reqOp 0x1F#128).toNat ∧
    ∀ op : Fin 0x11, reqOp ((-1#128 <<< 5) ||| BitVec.ofNat 128 op) = BitVec.ofNat 5 op := by decide

theorem witness_CoordinatesAreTwosComplement :
    signed 0x7FFF = 32767 ∧ signed 0x8000 = -32768 ∧ signed 0xFFFF = -1 ∧ unsigned 0xFFFF = 65535 := by decide

theorem witness_StepRunsTheAcceptedRequest :
    let s := { State.reset with requests := [0x03#128, 0x04#128] }
    s.dev.inbox = [] ∧ s.busy = false ∧ s.requests = 0x03#128 :: [0x04#128] ∧ decodeRequest 0x03#128 = .ok .flush := by
  decide

theorem witness_StepRunsTheNextDeviceCommand :
    decodeCommand { Dev.reset with inbox := [0x20, 0x02, 0xAF] }.inbox = .ok (.addrmode 2, [0xAF]) := by decide

theorem witness_ReservedRequestIsAnsweredIllegal :
    let s := { State.reset with requests := [0x11#128, 0x1F#128] }
    s.dev.inbox = [] ∧ s.busy = false ∧ s.requests = 0x11#128 :: [0x1F#128] ∧ 0x11 ≤ (reqOp 0x11#128).toNat ∧
      0x11 ≤ (reqOp 0x1F#128).toNat := by decide

theorem witness_NothingHappensWhenNothingIsAccepted :
    State.reset.dev.inbox = [] ∧ State.reset.requests = [] ∧
    { State.reset with busy := true, requests := [0x04#128] }.busy = true := by decide

theorem witness_TheBlockNeverStops : State.reset.dev.inbox = [] := by decide

theorem witness_EveryRequestGivesOneResponse :
    Instr.port .init = .request ∧ Instr.port (.drawstr5 0 0 0xFFFF 0xFFFFFFFF) = .request := by decide

/-- Both corners of the display, at both heights, and the first positions past them. -/
theorem witness_AddressGeneratorBitForm :
    (8 ≤ 8) ∧ pag true (0#8).toInt (0#8).toInt = some ⟨0, 0, 0⟩ ∧ pag true (127#8).toInt (63#8).toInt = some ⟨7, 127, 7⟩ ∧
    pag false (127#8).toInt (31#8).toInt = some ⟨3, 127, 7⟩ ∧ pag false (0#8).toInt (32#8).toInt = none ∧
    pagBits false (0#8) (32#8) = none ∧ pagBits true (0x80#8) (0#8) = none ∧ pag true (0x80#8).toInt (0#8).toInt = none := by
  decide

/-- The first and the last display pixel, an address not stored to, a position off the display, a word. -/
theorem witness_SetpixelEffect :
    (0 < 128 ∧ 0 < height false ∧ signed 0 = 0) ∧ (127 < 128 ∧ 31 < height false ∧ signed 31 = 31) ∧
    pixelAddr false (signed 127) (signed 31) = some 511 ∧
    ¬ (0 ≤ signed 0 ∧ signed 0 < 128 ∧ 0 ≤ signed 32 ∧ signed 32 < height false) ∧
    ¬ (0 ≤ signed 0xFFFF ∧ signed 0xFFFF < 128 ∧ 0 ≤ signed 0 ∧ signed 0 < height false) ∧
    reqOp 0x06#128 = 0x06 := by decide

theorem witness_SetPixelCallsCommute :
    (¬ ((127 : Int) = 127 ∧ (31 : Int) = 30)) ∧
    (¬ ((0 : Int) ≤ 128 ∧ (128 : Int) < 128 ∧ (0 : Int) ≤ 0 ∧ (0 : Int) < height false)) := by decide

theorem witness_ClrbufZeroesEveryByte :
    3 < pages false ∧ 127 < 128 ∧ ¬ 4 < pages false ∧ 7 < pages true ∧ reqOp 0x04#128 = 0x04 := by decide

/-- A pixel of the clipped line at its last column, the first pixel past a line, a byte no pixel of it lies in. -/
theorem witness_HorizontalLineEffect :
    (127 < 128 ∧ 0 < height false ∧ signed 0 = 0 ∧ max (signed 120) 0 ≤ 127 ∧
      127 < min (signed 120 + unsigned 20) 128) ∧
    ¬ 5 < min (signed 0xFFFB + unsigned 10) 128 ∧
    (∀ i : Nat, i < unsigned 2 → pixelAddr false (signed 126 + i) (signed 0) ≠ some 128) := by decide

theorem witness_VerticalLineEffect :
    (0 < 128 ∧ 31 < height false ∧ signed 0 = 0 ∧ max (signed 30) 0 ≤ 31 ∧
      31 < min (signed 30 + unsigned 9) (height false)) ∧
    ¬ 2 < min (signed 0xFFFD + unsigned 5) (height false) ∧
    (∀ i : Nat, i < unsigned 2 → pixelAddr false (signed 0) (signed 30 + i) ≠ some 0) := by decide

/-- A corner of the outline, a pixel inside it, the pixel right of it, a byte none of its pixels lies in, a zero side. -/
theorem witness_RectangleEffect :
    (signed 0 ≤ 9 ∧ (9 : Int) ≤ signed 0 + unsigned 10 - 1 ∧ signed 0 ≤ 4 ∧ (4 : Int) ≤ signed 0 + unsigned 5 - 1 ∧
      (9 : Int) = signed 0 + unsigned 10 - 1) ∧
    ¬ ((8 : Int) = signed 0 ∨ (8 : Int) = signed 0 + unsigned 10 - 1 ∨ (3 : Int) = signed 0 ∨
      (3 : Int) = signed 0 + unsigned 5 - 1) ∧
    ¬ (10 : Int) ≤ signed 0 + unsigned 10 - 1 ∧
    (∀ i : Nat, i < unsigned 10 → pixelAddr false (signed 0 + i) (signed 0) ≠ some 10 ∧
      pixelAddr false (signed 0 + i) (signed 0 + unsigned 5 - 1) ≠ some 10) ∧
    (∀ i : Nat, i < unsigned 5 → pixelAddr false (signed 0) (signed 0 + i) ≠ some 10 ∧
      pixelAddr false (signed 0 + unsigned 10 - 1) (signed 0 + i) ≠ some 10) ∧
    (unsigned 0 = 0 ∨ unsigned 5 = 0) := by decide

/-- The first and the last pixel of a bitmap, the one below it, a byte it does not reach. -/
theorem witness_BitmapEffect :
    (signed 0xFFFE ≤ 0 ∧ (0 : Int) < signed 0xFFFE + unsigned 4 ∧ signed 0xFFFC ≤ 5 ∧ (5 : Int) < signed 0xFFFC + unsigned 10) ∧
    ¬ (6 : Int) < signed 0xFFFC + unsigned 10 ∧ ¬ (2 : Int) < signed 0xFFFE + unsigned 4 ∧
    (∀ col : Nat, col < unsigned 4 → ∀ row : Nat, row < unsigned 10 →
      pixelAddr false (signed 0xFFFE + col) (signed 0xFFFC + row) ≠ some 2) := by decide

theorem witness_TransposerBits :
    (List.replicate 8 0xFF#8).length = 8 ∧ 1 ≤ 1 ∧ 1 ≤ 8 ∧ 8 ≤ 8 ∧ (7 < 8) ∧
    (transpose (List.replicate 8 0xFF#8) 1 1).map (fun b => (b.getLsbD 0, b.getLsbD 1)) = [(true, false)] := by decide

theorem witness_TransposerIsSelfInverse :
    (List.replicate 8 0x1F#8).length = 8 ∧
    transpose (transpose (List.replicate 8 0xFF#8) 5 8) 8 5 ≠ List.replicate 8 0xFF#8 := by decide

/-- The last pixel of a cell, the pixel right of it, the pixel below it, a byte of another cell; every font's last
stored byte; a font other than 8. -/
theorem witness_CharacterEffect :
    (signed 10 ≤ 15 ∧ (15 : Int) < signed 10 + glyphCols .f6 ∧ signed 8 ≤ 15 ∧ (15 : Int) < signed 8 + 8) ∧
    ¬ (16 : Int) < signed 10 + glyphCols .f6 ∧ ¬ (16 : Int) < signed 8 + 8 ∧
    (∀ col : Nat, col < glyphCols .f6 → ∀ row : Nat, row < 8 →
      pixelAddr false (signed 10 + col) (signed 8 + row) ≠ some (128 + 16)) ∧
    (7 < glyphCols .f8 ∧ 5 < glyphCols .f6 ∧ 4 < glyphCols .f5) ∧ Font.f6 ≠ .f8 ∧ (Font.f8 = .f8 ∧ 7 < 8) := by decide

/-- The last pixel of the last character; a pixel of the spacing column, which lies in no character; its byte. -/
theorem witness_StringEffect :
    (2 < unsigned 3 ∧ 5 < glyphCols .f6 ∧ 7 < 8 ∧ (19 : Int) = signed 0 + advance .f6 * (2 : Nat) + (5 : Nat) ∧
      (7 : Int) = signed 0 + (7 : Nat)) ∧
    (∀ k : Nat, k < unsigned 3 → ∀ col : Nat, col < glyphCols .f6 → (6 : Int) ≠ signed 0 + advance .f6 * k + col) ∧
    (∀ k : Nat, k < unsigned 3 → ∀ col : Nat, col < glyphCols .f6 → ∀ row : Nat, row < 8 →
      pixelAddr false (signed 0 + advance .f6 * k + col) (signed 0 + row) ≠ some 6) := by decide

theorem witness_DrawingAlwaysSucceedsOffTheBus :
    isDrawing .clrbuf = true ∧ isDrawing (.drawstr5 0 0 0 0) = true := by decide

theorem witness_InitOutcome :
    { blank .sh1106 true [] with answers := [.ok] }.answerAt 0 = .ok ∧
    { blank .sh1106 true [] with answers := [.fail] }.answerAt 0 = .fail ∧ reqOp 0x00#128 = 0x00 := by decide

/-- The four corners of SETPOS's range. -/
theorem witness_SetposSendsThePosition :
    flushReady.inited = true ∧ (0 ≤ signed 0 ∧ signed 0 < 128 ∧ 0 ≤ signed 0 ∧ signed 0 < pages flushReady.h64) ∧
    (0 ≤ signed 127 ∧ signed 127 < 128 ∧ 0 ≤ signed 3 ∧ signed 3 < pages flushReady.h64) ∧
    (pageReady.inited = true ∧ pageReady.dev.mode = .page ∧ pageReady.dev.inbox = [] ∧ pageReady.answerAt 0 = .ok) := by
  decide

/-- One operand just past each edge. -/
theorem witness_SetposOffTheDisplayIsANoop :
    signed 0xFFFF < 0 ∧ 128 ≤ signed 128 ∧ (pages false : Int) ≤ signed 4 ∧ ¬ (pages true : Int) ≤ signed 7 := by decide

theorem witness_FlushpageSendsOnePage :
    flushReady.inited = true ∧ (3#8).toNat < pages flushReady.h64 ∧ pageReady.inited = true ∧
    (0#8).toNat < pages pageReady.h64 := by decide

theorem witness_FlushpagePastTheLastPageIsANoop :
    pages false ≤ (4#8).toNat ∧ pages true ≤ (8#8).toNat ∧ pages true ≤ (255#8).toNat := by decide

theorem witness_BusOperationsNeedInit :
    State.reset.inited = false ∧ (∃ x y, Instr.setpos 128 0 = .setpos x y) ∧ (∃ ch, Instr.flushpage 9 = .flushpage ch) ∧
    (isDrawing (.setpixel true 0 0) = true) ∧ (7 < pages true ∧ 127 < 128) :=
  ⟨by decide, ⟨128, 0, rfl⟩, ⟨9, rfl⟩, by decide, by decide⟩

theorem witness_FlushTraceIsTheMessageList : flushReady.inited = true ∧ pageReady.inited = true := by decide

theorem witness_ClearZeroesAndSends : flushReady.inited = true ∧ (3 < pages flushReady.h64 ∧ 127 < 128) := by decide

/-- A FLUSH that ends with `OK` on each chip. -/
theorem witness_FlushMessageAndWireByteCounts :
    (∃ t, exec .flush flushReady = .next t ∧ t.status = .ok) ∧ (∃ t, exec .flush pageReady = .next t ∧ t.status = .ok) :=
  ⟨⟨_, rfl, by decide +kernel⟩, ⟨_, rfl, by decide +kernel⟩⟩

theorem witness_ModeAndRangeCommands : (0x00#8).toNat = 0 ∧ (0x02#8).toNat = 2 ∧ (0x01#8).toNat ≠ 0 := by decide

theorem witness_PositionCommandsInPageMode : pageReady.dev.mode = .page := by decide

theorem witness_PositionCommandsOutsidePageMode :
    flushReady.dev.mode ≠ .page ∧ State.reset.dev.mode ≠ .page := by decide

theorem witness_PositionPayloadMovesThePointer :
    pageReady.dev.mode = .page ∧ pageReady.dev.inbox = [] ∧ 7 < 8 ∧ 255 < 256 := by decide

theorem witness_PositionPayloadBytes : posPayload 7 255 = posBytes 7 255 ∧ posPayload 0 0 = posBytes 0 0 := by decide

/-- Every parameter a legal one of the variant; the last clause's shape: a legal sequence other than the default, and
three that are none: a second multiplex ratio, display-on not last, a range on SH1106 that is not the full one. -/
theorem witness_DefaultInitSequences :
    initSeqOk .ssd1306 true [0x8D, 0x14, 0xA8, 0x3F, 0x20, 0x00, 0x21, 0x00, 0x7F, 0x22, 0x00, 0x07, 0xDA, 0x12, 0xA0, 0xC0,
      0xAF] = true ∧
    initSeqOk .ssd1306 true [0xA8, 0x3F, 0xA8, 0x1F, 0x8D, 0x14, 0x20, 0x00, 0x21, 0x00, 0x7F, 0x22, 0x00, 0x07, 0xDA, 0x12,
      0xA1, 0xC8, 0xAF] = false ∧
    initSeqOk .ssd1306 true [0xA8, 0x3F, 0x8D, 0x14, 0x20, 0x00, 0x21, 0x00, 0x7F, 0x22, 0x00, 0x07, 0xDA, 0x12, 0xAF, 0xA1,
      0xC8] = false ∧
    initSeqOk .sh1106 true [0xAE, 0xA8, 0x3F, 0xD3, 0x00, 0x40, 0x81, 0x7F, 0xD5, 0x80, 0xDB, 0x40, 0x8D, 0x14, 0x20, 0x02,
      0x21, 0x00, 0x83, 0xDA, 0x12, 0xA1, 0xC8, 0xAF] = false ∧
    State.reset.initSeq = none := by decide +kernel

/-- The last column of the range, the last page of it; the last column but one and the last one in page mode; a mode the
mirror has no pointer rule for. -/
theorem witness_DataByteAdvancesThePointer :
    (flushReady.dev.pg < 8 ∧ flushReady.dev.col < devCols .ssd1306 ∧ flushReady.dev.mode = .horizontal) ∧
    (let d := { flushReady.dev with pg := 3, col := 127 };
      d.pg < 8 ∧ d.col < devCols .ssd1306 ∧ ¬ d.col < d.colEnd ∧ ¬ d.pg < d.pgEnd) ∧
    (let d := { pageReady.dev with pg := 7, col := 130 };
      d.pg < 8 ∧ d.mode = .page ∧ d.col + 1 < devCols .sh1106) ∧
    (let d := { pageReady.dev with pg := 7, col := 131 };
      d.pg < 8 ∧ d.mode = .page ∧ d.col < devCols .sh1106 ∧ d.col + 1 = devCols .sh1106) ∧
    (Dev.reset.pg < 8 ∧ Dev.reset.col < devCols .ssd1306 ∧ Dev.reset.mode = .other) := by decide

/-- A failed position message, a failed init message on each chip, a failed data message on each chip; the last page. -/
theorem witness_FailedMessageLosesOnlyWhatItCouldWrite :
    (let s := { pageReady with answers := [.fail] };
      s.inited = true ∧ (0 ≤ signed 127 ∧ signed 127 < 128 ∧ 0 ≤ signed 3 ∧ signed 3 < pages s.h64) ∧
      s.answerAt 0 = .fail ∧ s.chip = .sh1106 ∧ s.initSeq = none) ∧
    { flushReady with answers := [.fail] }.answerAt 0 = .fail ∧
    (flushReady.chip = .ssd1306 ∧ flushReady.inited = true ∧ (3#8).toNat < pages flushReady.h64) ∧
    (let s := { pageReady with answers := [.ok, .fail] };
      s.chip = .sh1106 ∧ s.inited = true ∧ s.dev.mode = .page ∧ s.dev.inbox = [] ∧ (3#8).toNat < pages s.h64 ∧
      s.answerAt 0 = .ok ∧ s.answerAt 1 = .fail) := by decide

theorem witness_InitLeavesTheDeviceReady :
    (flushReady.dev.inbox = [] ∧ flushReady.answerAt 0 = .ok ∧ flushReady.chip = .ssd1306) ∧
    (pageReady.dev.inbox = [] ∧ pageReady.answerAt 0 = .ok ∧ pageReady.chip = .sh1106) := by decide

theorem witness_FlushShowsFramebufferOnSh1106 :
    pageReady.chip = .sh1106 ∧ pageReady.inited = true ∧ pageReady.dev.mode = .page ∧ pageReady.dev.inbox = [] ∧
    (∃ t, exec .flush pageReady = .next t ∧ t.status = .ok) :=
  ⟨rfl, rfl, rfl, rfl, _, rfl, by decide +kernel⟩

theorem flushReady_ready : flushReady.dev.Ready flushReady.h64 := ⟨rfl, rfl, rfl, rfl, rfl, rfl, rfl⟩

theorem witness_FlushShowsFramebufferOnSsd1306 :
    flushReady.chip = .ssd1306 ∧ flushReady.inited = true ∧ flushReady.dev.Ready flushReady.h64 ∧
    (∃ t, exec .flush flushReady = .next t ∧ t.status = .ok) :=
  ⟨rfl, rfl, flushReady_ready, _, rfl, by decide +kernel⟩

/-- A FLUSHPAGE of the last page, and a FLUSH after it that ends with `OK`. -/
theorem witness_FlushpageAloneLandsOnPageZeroOfSsd1306 :
    let s := { flushReady with answers := List.replicate 5 .ok }
    s.chip = .ssd1306 ∧ s.inited = true ∧ s.dev.Ready s.h64 ∧ (3#8).toNat < pages s.h64 ∧ s.answerAt 0 = .ok ∧
    ∃ t, exec (.flushpage 3) s = .next t ∧ ∃ u, exec .flush t = .next u ∧ u.status = .ok :=
  ⟨rfl, rfl, flushReady_ready, by decide, by decide, _, rfl, _, rfl, by decide +kernel⟩

/-- INIT sends one message; its event is the trace's new part. -/
theorem witness_TraceGrowsByLegalMessages :
    ∃ t, exec .init flushReady = .next t ∧ t.trace.map (fun e => e.payload.length) = [17] := ⟨_, rfl, by decide +kernel⟩

theorem witness_OnlyInitWritesInited :
    (∃ t, exec .clear flushReady = .next t) ∧ Instr.clear ≠ .init := ⟨⟨_, rfl⟩, by decide⟩

theorem witness_OnlyDrawingAndClearWriteFramebuffer :
    (∃ t, exec .flush flushReady = .next t) ∧ isDrawing .flush = false ∧ Instr.flush ≠ .clear :=
  ⟨⟨_, rfl⟩, by decide, by decide⟩

theorem witness_CommandsChangeTheDeviceAlone : Instr.port (.vcomh 0xFF) = .device := by decide

theorem witness_VariantAndParametersNeverChange : ∃ t, step State.reset = .next t := ⟨_, rfl⟩

theorem witness_reset_inv : (State.resetWith .sh1106 false).Inv := by
  refine ⟨by decide, by decide, by decide, by decide, by decide, by decide, by decide, by decide, by decide, by decide,
    rfl, rfl, rfl, rfl, by decide, ?_, ?_, ⟨by decide, by decide, by decide, by decide, by decide, by decide,
      by decide, by decide⟩⟩
  · intro bs h
    exact absurd h (by simp [State.resetWith])
  · intro st h
    exact absurd h (by simp [State.resetWith])

theorem witness_ResetMeetsTheInvariant :
    (State.resetWith .sh1106 false).Inv ∧ (fbZero false).wf = true ∧ (fbZero false).below (fbSize false) = true :=
  ⟨witness_reset_inv, by decide +kernel, by decide +kernel⟩

theorem witness_EveryStepKeepsTheInvariant :
    (State.resetWith .sh1106 false).Inv ∧ ∃ t, step (State.resetWith .sh1106 false) = .next t :=
  ⟨witness_reset_inv, _, rfl⟩

theorem witness_FourLegalVariants :
    (variantOf .ssd1306 true).wellFormed = true ∧ (variantOf .sh1106 false).wellFormed = true ∧
    DisplayVariant.wellFormed ⟨.sh1106, 64, 0, .page, .split⟩ = false := by decide

end Sys2Proof.Tests
end

/-! Proofs about the display controller: INIT (R120) and FLUSHPAGE past the last page (R134). -/

namespace Sys2Proof.Machine

/-! ### INIT -/

/-- The lowest request code selects INIT, whatever the other fields hold (R93, R94). -/
theorem decodeRequest_of_reqOp_eq_zero {w : Request} (h : reqOp w = 0x00) : decodeRequest w = .ok .init := by
  simp [decodeRequest, h]

/-- Sending one message and completing writes the trace, the device and the answers, and what completing writes: the
frame of a one-message operation (R24, R30, R33). -/
theorem State.complete_withInited_transmit_frame (s : State) (mode : BusMode) (payload : List Byte) (b : Bool)
    (st : Status) :
    ((s.transmit mode payload).withInited b).complete st =
      { s with inited := b, status := st, trace := (s.transmit mode payload).trace,
               dev := (s.transmit mode payload).dev, answers := (s.transmit mode payload).answers,
               answersDrawn := (s.transmit mode payload).answersDrawn, busy := false, seq := Seq.start,
               responses := s.responses ++ [st] } := by
  have hframe := (Sent.one s mode payload s.seq).frame
  exact congrArg (fun t => (t.withInited b).complete st) hframe

/-- Settles O29: INIT is one `transmit`, whose answer alone decides `INITED` and `STATUS`; the frame is that of a
one-message operation. -/
theorem initOutcome : Obligations.InitOutcome := by
  intro s
  refine ⟨_, exec_init s, ?trace, ?answeredOk, ?answeredFail, ?answers, ?frame, ?code⟩
  case trace => simp
  case answeredOk =>
    intro hok
    simp [hok, initedOfAnswer, statusOfAnswer]
  case answeredFail =>
    intro hfail
    simp [hfail, initedOfAnswer, statusOfAnswer]
  case answers =>
    intro k
    simp
  case frame => exact s.complete_withInited_transmit_frame .cmd (initPayload s) _ _
  case code => exact fun _ => decodeRequest_of_reqOp_eq_zero

/-! ### FLUSHPAGE -/

/-- With `CH` past the last page no message is sent: the `INITED` test alone decides the status (R134, R234). -/
theorem exec_flushpage_of_pages_le {s : State} {ch : BitVec 8} (h : pages s.h64 ≤ ch.toNat) :
    exec (.flushpage ch) s = .next (s.complete (if s.inited then .ok else .errNotInit)) := by
  have hpage : ¬ ch.toNat < pages s.h64 := Nat.not_lt.mpr h
  cases hi : s.inited with
  | false => simp [exec, execFlushpage, hi, Cause.status]
  | true => simp [exec, execFlushpage, hi, hpage]

/-- Settles O33: past the last page FLUSHPAGE only completes, and completing writes these four registers. -/
theorem flushpagePastTheLastPageIsANoop : Obligations.FlushpagePastTheLastPageIsANoop :=
  fun _ _ h => exec_flushpage_of_pages_le h

end Sys2Proof.Machine

/-! Proofs about the framebuffer operations: CLRBUF (R150) and SETPIXEL (R152). -/

namespace Sys2Proof.Machine

/-- An operation that stores to `FB` alone and completes writes `FB` and what completing writes (R24, R32). -/
theorem State.complete_withFb_frame (s : State) (fb : Memory) (st : Status) :
    (s.withFb fb).complete st =
      { s with fb := fb, status := st, busy := false, seq := Seq.start, responses := s.responses ++ [st] } := rfl

/-! ### SETPIXEL -/

/-- Request code 0x06 selects SETPIXEL with `COLOR`, `X` and `Y` (R92, R93). -/
theorem decodeRequest_of_reqOp_eq_six {w : Request} (h : reqOp w = 0x06) :
    decodeRequest w = .ok (.setpixel (reqColor w) (reqX w) (reqY w)) := by
  simp [decodeRequest, h]

theorem exec_setpixel (color : Bool) (x y : BitVec 16) (s : State) :
    exec (.setpixel color x y) s =
      .next ((s.withFb (setPixel s.h64 (signed x) (signed y) color s.fb)).complete .ok) := rfl

/-- Settles O14: SETPIXEL is one `setPixel` call, whose laws give every pixel and every byte; completing gives the rest. -/
theorem setpixelEffect : Obligations.SetpixelEffect := by
  intro s color x y
  refine ⟨_, exec_setpixel color x y s, ?pixels, ?otherBytes, ?offDisplay, ?frame, ?code⟩
  case pixels => exact fun _ _ hx hy => fbPixel_setPixel s.h64 _ _ color s.fb hx hy
  case otherBytes => exact fun _ hne => fbRead_setPixel_other s.h64 _ _ color s.fb hne
  case offDisplay => exact fun hoff => setPixel_off (pag_off hoff) color s.fb
  case frame => exact s.complete_withFb_frame _ .ok
  case code => exact fun _ => decodeRequest_of_reqOp_eq_six

/-! ### CLRBUF -/

/-- Request code 0x04 selects CLRBUF, whatever the other fields hold (R93, R94). -/
theorem decodeRequest_of_reqOp_eq_four {w : Request} (h : reqOp w = 0x04) : decodeRequest w = .ok .clrbuf := by
  simp [decodeRequest, h]

theorem exec_clrbuf (s : State) : exec .clrbuf s = .next ((s.withFb (fbZero s.h64)).complete .ok) := rfl

/-- Every byte of every page of the cleared framebuffer is 0 (R150). -/
theorem fbByte_fbZero {h64 : Bool} {p c : Nat} (hp : p < pages h64) (hc : c < 128) : fbByte (fbZero h64) p c = 0 :=
  fbRead_fbZero h64 (fbAddr_lt hp hc)

/-- Settles O16: CLRBUF makes `FB` the cleared framebuffer and completes; it reads neither `FB` nor `INITED`. -/
theorem clrbufZeroesEveryByte : Obligations.ClrbufZeroesEveryByte := by
  intro s
  refine ⟨_, exec_clrbuf s, ?bytes, ?frame, ?code⟩
  case bytes => exact fun _ _ => fbByte_fbZero
  case frame => exact s.complete_withFb_frame _ .ok
  case code => exact fun _ => decodeRequest_of_reqOp_eq_four

end Sys2Proof.Machine

/-! Proofs about the glyph renderer: the glyph index (R183). -/

namespace Sys2Proof.Machine

/-- Codes 32..127 select the glyph of their own place in the table (R183). -/
theorem glyphIndex_of_mem {c : Byte} (h : 32 ≤ c.toNat ∧ c.toNat ≤ 127) : glyphIndex c = c.toNat - 32 :=
  if_neg (by omega)

/-- Every other code selects glyph 0, the space (R183). -/
theorem glyphIndex_of_not_mem {c : Byte} (h : ¬ (32 ≤ c.toNat ∧ c.toNat ≤ 127)) : glyphIndex c = 0 :=
  if_pos (by omega)

/-- Settles O25: a code in 32..127 gives its distance from 32, at most 95; any other gives the space. -/
theorem glyphIndexClampsToSpace : Obligations.GlyphIndexClampsToSpace := by
  intro c
  by_cases h : 32 ≤ c.toNat ∧ c.toNat ≤ 127
  · rw [glyphIndex_of_mem h, if_pos h]
    exact ⟨rfl, by omega⟩
  · rw [glyphIndex_of_not_mem h, if_neg h]
    exact ⟨rfl, Nat.zero_le 95⟩

end Sys2Proof.Machine

/-! Proofs about the encodings: requests (R90 to R95) and controller commands (R102, R103, R200). -/

namespace Sys2Proof

/-! ### Encoded requests are read back -/

theorem encode_of_port_request {i : Instr} (h : i.port = .request) : encode i = bytesOfRequest (encodeRequest i) := by
  cases i <;> first | rfl | exact nomatch h

/-- The request decoder inverts the request encoder: each packed field is read back (R90, R92, R93). -/
theorem decodeRequest_encodeRequest {i : Instr} (h : i.port = .request) : decodeRequest (encodeRequest i) = .ok i := by
  cases i <;> simp_all [Instr.port, encodeRequest, decodeRequest]

/-- The 16 bytes of a word are decoded as that word, and the bytes after them are left (R90). -/
theorem decode_request_bytesOfRequest {w : Request} {i : Instr} (h : decodeRequest w = .ok i) (rest : List Byte) :
    decode .request (bytesOfRequest w ++ rest) = .ok (i, rest) := by
  simp [decode, List.take_left', List.drop_left', requestOfBytes_bytesOfRequest, h]

/-! ### Encoded commands are read back -/

theorem oneArg_append {b : Byte} {f : Byte → Instr} {bs left : List Byte} {i : Instr}
    (h : oneArg b f bs = .ok (i, left)) (rest : List Byte) : oneArg b f (bs ++ rest) = .ok (i, left ++ rest) := by
  cases bs <;> simp_all [oneArg]

theorem twoArgs_append {b : Byte} {f : Byte → Byte → Instr} {bs left : List Byte} {i : Instr}
    (h : twoArgs b f bs = .ok (i, left)) (rest : List Byte) : twoArgs b f (bs ++ rest) = .ok (i, left ++ rest) := by
  match bs with
  | [] => cases h
  | [_] => cases h
  | _ :: _ :: _ => simp_all [twoArgs]

theorem ite_eq_imp {α β : Type} {c : Prop} [Decidable c] {x y : α} {x' y' : β} {u : α} {v : β}
    (ht : x = u → x' = v) (hf : y = u → y' = v) : (if c then x else y) = u → (if c then x' else y') = v := by
  split <;> assumption

/-- A command is read off the front of its bytes: what follows is left as it is (R200). -/
theorem decodeCommand_append {bs left : List Byte} {i : Instr} (h : decodeCommand bs = .ok (i, left))
    (rest : List Byte) : decodeCommand (bs ++ rest) = .ok (i, left ++ rest) := by
  cases bs with
  | nil => cases h
  | cons b bs =>
    revert h
    simp only [List.cons_append, decodeCommand]
    -- both sides make the same tests of the opcode byte
    repeat' refine ite_eq_imp ?_ ?_
    all_goals
      intro h
      first
        | exact oneArg_append h rest
        | exact twoArgs_append h rest
        | (cases h <;> rfl)

/-- A command's own bytes are read as that command, and none is left (R103, R200). -/
theorem decodeCommand_encode {i : Instr} (h : i.port = .device) : decodeCommand (encode i) = .ok (i, []) := by
  cases i
  case setcollo n => revert n; decide
  case setcolhi n => revert n; decide
  case startline l => revert l; decide
  case setpage p => revert p; decide
  case segremap r => cases r <;> decide
  case comscan d => cases d <;> decide
  all_goals first | rfl | exact nomatch h

/-- Settles O2: at the request port the word is recovered and its fields read back; at the device the command's own
bytes are read and the rest is left. -/
theorem decodeOfEncodeGivesBackEveryInstruction : Obligations.DecodeOfEncodeGivesBackEveryInstruction := by
  intro i rest
  cases hport : i.port with
  | request =>
    rw [encode_of_port_request hport]
    exact decode_request_bytesOfRequest (decodeRequest_encodeRequest hport) rest
  | device => exact decodeCommand_append (decodeCommand_encode hport) rest

/-! ### One reading of command bytes -/

/-- `bs` is the encoding of the command `i`, then `rest`. -/
def ReadsAs (bs : List Byte) (i : Instr) (rest : List Byte) : Prop := i.port = .device ∧ bs = encode i ++ rest

theorem readsAs_of_noArg {b : Byte} {bs rest : List Byte} {i j : Instr}
    (h : (.ok (j, bs) : Except DecodeError (Instr × List Byte)) = .ok (i, rest)) (hport : j.port = .device)
    (henc : [b] = encode j) : ReadsAs (b :: bs) i rest := by
  cases h
  exact ⟨hport, congrArg (· ++ bs) henc⟩

theorem readsAs_of_oneArg {b : Byte} {f : Byte → Instr} {bs rest : List Byte} {i : Instr}
    (h : oneArg b f bs = .ok (i, rest)) (hport : ∀ a, (f a).port = .device) (henc : ∀ a, [b, a] = encode (f a)) :
    ReadsAs (b :: bs) i rest := by
  cases bs with
  | nil => cases h
  | cons a bs => cases h; exact ⟨hport a, congrArg (· ++ rest) (henc a)⟩

theorem readsAs_of_twoArgs {b : Byte} {f : Byte → Byte → Instr} {bs rest : List Byte} {i : Instr}
    (h : twoArgs b f bs = .ok (i, rest)) (hport : ∀ a c, (f a c).port = .device)
    (henc : ∀ a c, [b, a, c] = encode (f a c)) : ReadsAs (b :: bs) i rest := by
  match bs with
  | [] => cases h
  | [_] => cases h
  | a :: c :: _ => cases h; exact ⟨hport a c, congrArg (· ++ rest) (henc a c)⟩

/-- An opcode byte that carries a field is its fixed bits before the field (R103). -/
theorem field_opcode_bytes (b : Byte) :
    (b &&& 0xF0#8 = 0x00#8 → [b] = encode (.setcollo (b.extractLsb' 0 4))) ∧
    (b &&& 0xF0#8 = 0x10#8 → [b] = encode (.setcolhi (b.extractLsb' 0 4))) ∧
    (b &&& 0xC0#8 = 0x40#8 → [b] = encode (.startline (b.extractLsb' 0 6))) ∧
    (b &&& 0xFE#8 = 0xA0#8 → [b] = encode (.segremap (b.getLsbD 0))) ∧
    (b &&& 0xF8#8 = 0xB0#8 → [b] = encode (.setpage (b.extractLsb' 0 3))) ∧
    (b &&& 0xF7#8 = 0xC0#8 → [b] = encode (.comscan (b.getLsbD 3))) := by
  revert b; decide +kernel

/-- Settles O3: in each branch of the decoder the tested bits and the field, or the opcode byte and its arguments, are
the encoding. -/
theorem commandBytesHaveOneReading : Obligations.CommandBytesHaveOneReading := by
  intro bs i rest h
  cases bs with
  | nil => cases h
  | cons b bs =>
    obtain ⟨hcollo, hcolhi, hstartline, hsegremap, hsetpage, hcomscan⟩ := field_opcode_bytes b
    rw [decodeCommand] at h
    -- the tests in the decoder's order
    rcases ite_eq_iff.mp h with ⟨hb, hi⟩ | ⟨-, h⟩
    · exact readsAs_of_noArg hi rfl (hcollo hb)
    rcases ite_eq_iff.mp h with ⟨hb, hi⟩ | ⟨-, h⟩
    · exact readsAs_of_noArg hi rfl (hcolhi hb)
    rcases ite_eq_iff.mp h with ⟨rfl, hi⟩ | ⟨-, h⟩
    · exact readsAs_of_oneArg hi (fun _ => rfl) fun _ => rfl
    rcases ite_eq_iff.mp h with ⟨rfl, hi⟩ | ⟨-, h⟩
    · exact readsAs_of_twoArgs hi (fun _ _ => rfl) fun _ _ => rfl
    rcases ite_eq_iff.mp h with ⟨rfl, hi⟩ | ⟨-, h⟩
    · exact readsAs_of_twoArgs hi (fun _ _ => rfl) fun _ _ => rfl
    rcases ite_eq_iff.mp h with ⟨hb, hi⟩ | ⟨-, h⟩
    · exact readsAs_of_noArg hi rfl (hstartline hb)
    rcases ite_eq_iff.mp h with ⟨rfl, hi⟩ | ⟨-, h⟩
    · exact readsAs_of_oneArg hi (fun _ => rfl) fun _ => rfl
    rcases ite_eq_iff.mp h with ⟨rfl, hi⟩ | ⟨-, h⟩
    · exact readsAs_of_oneArg hi (fun _ => rfl) fun _ => rfl
    rcases ite_eq_iff.mp h with ⟨hb, hi⟩ | ⟨-, h⟩
    · exact readsAs_of_noArg hi rfl (hsegremap hb)
    rcases ite_eq_iff.mp h with ⟨rfl, hi⟩ | ⟨-, h⟩
    · exact readsAs_of_oneArg hi (fun _ => rfl) fun _ => rfl
    rcases ite_eq_iff.mp h with ⟨rfl, hi⟩ | ⟨-, h⟩
    · exact readsAs_of_noArg hi rfl rfl
    rcases ite_eq_iff.mp h with ⟨rfl, hi⟩ | ⟨-, h⟩
    · exact readsAs_of_noArg hi rfl rfl
    rcases ite_eq_iff.mp h with ⟨hb, hi⟩ | ⟨-, h⟩
    · exact readsAs_of_noArg hi rfl (hsetpage hb)
    rcases ite_eq_iff.mp h with ⟨hb, hi⟩ | ⟨-, h⟩
    · exact readsAs_of_noArg hi rfl (hcomscan hb)
    rcases ite_eq_iff.mp h with ⟨rfl, hi⟩ | ⟨-, h⟩
    · exact readsAs_of_oneArg hi (fun _ => rfl) fun _ => rfl
    rcases ite_eq_iff.mp h with ⟨rfl, hi⟩ | ⟨-, h⟩
    · exact readsAs_of_oneArg hi (fun _ => rfl) fun _ => rfl
    rcases ite_eq_iff.mp h with ⟨rfl, hi⟩ | ⟨-, h⟩
    · exact readsAs_of_oneArg hi (fun _ => rfl) fun _ => rfl
    rcases ite_eq_iff.mp h with ⟨rfl, hi⟩ | ⟨-, h⟩
    · exact readsAs_of_oneArg hi (fun _ => rfl) fun _ => rfl
    cases h

/-! ### Request words -/

/-- The request port's decoder answers the operation of the code, or rejects the code by name (R92, R95). -/
theorem decodeRequest_cases (w : Request) :
    (0x11 ≤ (reqOp w).toNat ∧ decodeRequest w = .error (.reservedOp (reqOp w))) ∨
    ((reqOp w).toNat ≤ 0x10 ∧
      ∃ i, decodeRequest w = .ok i ∧ i.port = .request ∧ reqOp (encodeRequest i) = reqOp w) := by
  have hop : ∀ {n : Nat}, (reqOp w).toNat = n → BitVec.ofNat 5 n = reqOp w := by rintro _ rfl; simp
  unfold decodeRequest
  split
  -- the 17 codes, then the reserved ones
  all_goals first
    | exact .inr ⟨by omega, _, rfl, rfl, (reqOp_packRequest ..).trans (hop ‹_›)⟩
    | exact .inl ⟨by simp only [imp_false] at *; omega, rfl⟩

/-- Settles O4: the decoder branches on the code alone, and each branch reads the fields R93 lists. -/
theorem requestDecodingIsTotal : Obligations.RequestDecodingIsTotal := by
  intro w
  refine ⟨?operation, ?reserved, rfl, ?fields⟩
  case operation =>
    intro hle
    rcases decodeRequest_cases w with ⟨hge, -⟩ | ⟨-, hok⟩
    · omega
    · exact hok
  case reserved =>
    intro hge
    rcases decodeRequest_cases w with ⟨-, herr⟩ | ⟨hle, -⟩
    · exact herr
    · omega
  case fields =>
    rintro _ _ _ _ _ _ _ rfl rfl rfl rfl rfl rfl rfl
    refine ⟨?_, ?_, ?_, ?_, ?_, ?_, ?_, ?_, ?_, ?_, ?_, ?_, ?_, ?_, ?_, ?_, ?_⟩
    all_goals
      intro hop
      rw [decodeRequest, hop]
      rfl

/-- A field all of whose bits a mask keeps is the field of the masked word. -/
theorem extractLsb'_and_of_allOnes {n : Nat} (w m : BitVec n) {start len : Nat}
    (h : m.extractLsb' start len = BitVec.allOnes len) : (w &&& m).extractLsb' start len = w.extractLsb' start len := by
  rw [BitVec.extractLsb'_and, h, BitVec.and_allOnes]

/-- Settles O5: the mask keeps every bit of every field, and the decoder reads nothing else. -/
theorem reservedRequestBitsAreIgnored : Obligations.ReservedRequestBitsAreIgnored := by
  intro w
  generalize hm : 0x0000FFFFFFFFFFFFFFFFFFFFFFFFFF9F#128 = m
  have hop : reqOp (w &&& m) = reqOp w := extractLsb'_and_of_allOnes w m (by subst hm; decide)
  have hcolor : reqColor (w &&& m) = reqColor w := by subst hm; simp [reqColor]
  have hch : reqCh (w &&& m) = reqCh w := extractLsb'_and_of_allOnes w m (by subst hm; decide)
  have hx : reqX (w &&& m) = reqX w := extractLsb'_and_of_allOnes w m (by subst hm; decide)
  have hy : reqY (w &&& m) = reqY w := extractLsb'_and_of_allOnes w m (by subst hm; decide)
  have hw : reqW (w &&& m) = reqW w := extractLsb'_and_of_allOnes w m (by subst hm; decide)
  have hh : reqH (w &&& m) = reqH w := extractLsb'_and_of_allOnes w m (by subst hm; decide)
  have hptr : reqPtr (w &&& m) = reqPtr w := extractLsb'_and_of_allOnes w m (by subst hm; decide)
  unfold decodeRequest
  rw [hop, hcolor, hch, hx, hy, hw, hh, hptr]

/-! ### Signed and unsigned fields -/

open Sys2Proof.Machine in
/-- Settles O6: `X` and `Y` are read by `BitVec.toInt`, whose sign bit is bit 15; `W` and `H` by `BitVec.toNat`. -/
theorem coordinatesAreTwosComplement : Obligations.CoordinatesAreTwosComplement := by
  intro x
  refine ⟨?_, rfl⟩
  rw [signed, BitVec.toInt_eq_msb_cond, BitVec.msb_eq_getLsbD_last]
  norm_num

/-! ### Words of the spec -/

/-- Settles O1: each word is a closed list of bytes, and the decoder computes. -/
theorem wordsOfTheSpecDecode : Obligations.WordsOfTheSpecDecode := by
  unfold Obligations.WordsOfTheSpecDecode
  and_intros <;> decide

end Sys2Proof

/-! Proofs about the step and the whole machine: what is fetched (R12, R32, R80), what every instruction leaves
unchanged (R20 to R38), and the invariant. -/

namespace Sys2Proof.Machine

/-! ### What a step carries out -/

theorem step_idle {s : State} (h : fetch s = .idle) : step s = .next s := by rw [step, h]

theorem step_run {s t : State} {i : Instr} (h : fetch s = .run i t) : step s = exec i t := by rw [step, h]

theorem step_reserved {s t : State} (h : fetch s = .reserved t) : step s = .next (t.raise .illegal) := by
  rw [step, h]; rfl

theorem fetch_of_inbox_nil {s : State} (h : s.dev.inbox = []) : fetch s = fetchRequest s := by rw [fetch, h]

theorem fetch_of_inbox_cons {s : State} {b : Byte} {bs : List Byte} (h : s.dev.inbox = b :: bs) :
    fetch s = fetchCommand s := by rw [fetch, h]

theorem fetchRequest_nothing {s : State} (h : s.busy = true ∨ s.requests = []) : fetchRequest s = .idle := by
  rcases h with h | h <;> simp [fetchRequest, h]

theorem fetchRequest_ok {s : State} {w : Request} {rest : List Request} {i : Instr} (hb : s.busy = false)
    (hr : s.requests = w :: rest) (hw : decodeRequest w = .ok i) : fetchRequest s = .run i (s.accept w rest) := by
  simp [fetchRequest, hb, hr, hw]

theorem fetchRequest_error {s : State} {w : Request} {rest : List Request} {e : DecodeError} (hb : s.busy = false)
    (hr : s.requests = w :: rest) (hw : decodeRequest w = .error e) : fetchRequest s = .reserved (s.accept w rest) := by
  simp [fetchRequest, hb, hr, hw]

theorem fetch_of_command {s : State} {i : Instr} {rest : List Byte} (h : decodeCommand s.dev.inbox = .ok (i, rest)) :
    fetch s = .run i (s.withDev { s.dev with inbox := rest }) := by
  cases hin : s.dev.inbox with
  | nil => rw [hin] at h; cases h
  | cons b bs => rw [fetch_of_inbox_cons hin, fetchCommand, decode, h]

/-- What the request port offers: nothing, or a word with its decoding. -/
theorem fetchRequest_cases (s : State) :
    fetchRequest s = .idle ∨ ∃ w rest,
      (∃ i, decodeRequest w = .ok i ∧ i.port = .request ∧ fetchRequest s = .run i (s.accept w rest)) ∨
      fetchRequest s = .reserved (s.accept w rest) := by
  cases hb : s.busy with
  | true => exact .inl (fetchRequest_nothing (.inl hb))
  | false =>
    cases hr : s.requests with
    | nil => exact .inl (fetchRequest_nothing (.inr hr))
    | cons w rest =>
      refine .inr ⟨w, rest, ?_⟩
      rcases decodeRequest_cases w with ⟨-, herr⟩ | ⟨-, i, hok, hport, -⟩
      · exact .inr (fetchRequest_error hb hr herr)
      · exact .inl ⟨i, hok, hport, fetchRequest_ok hb hr hok⟩

/-- Everything a step that goes on can have done: nothing; a request, accepted and carried out, or answered as
reserved; a command off the device's inbox. -/
theorem step_cases {s t : State} (h : step s = .next t) :
    t = s ∨
    (∃ w rest, t = (s.accept w rest).complete .errIllegal) ∨
    (∃ w rest i, i.port = .request ∧ exec i (s.accept w rest) = .next t) ∨
    ∃ i bs, i.port = .device ∧ exec i (s.withDev { s.dev with inbox := bs }) = .next t := by
  cases hin : s.dev.inbox with
  | nil =>
    rcases fetchRequest_cases s with hf | ⟨w, rest, ⟨i, -, hport, hf⟩ | hf⟩ <;> rw [← fetch_of_inbox_nil hin] at hf
    · rw [step_idle hf] at h; cases h; exact .inl rfl
    · rw [step_run hf] at h; exact .inr (.inr (.inl ⟨w, rest, i, hport, h⟩))
    · rw [step_reserved hf] at h; cases h; exact .inr (.inl ⟨w, rest, rfl⟩)
  | cons b bs =>
    cases hd : decodeCommand s.dev.inbox with
    | ok r =>
      obtain ⟨i, rest⟩ := r
      rw [step_run (fetch_of_command hd)] at h
      exact .inr (.inr (.inr ⟨i, rest, (commandBytesHaveOneReading _ i rest hd).1, h⟩))
    | error e =>
      rw [step, fetch_of_inbox_cons hin, fetchCommand, decode, hd] at h
      cases e <;> cases h <;> exact .inl rfl

/-- Settles O7: the accepted word decodes to the instruction, and what acceptance writes is these four registers. -/
theorem stepRunsTheAcceptedRequest : Obligations.StepRunsTheAcceptedRequest := by
  intro s w rest i hin hb hr hw
  exact step_run ((fetch_of_inbox_nil hin).trans (fetchRequest_ok hb hr hw))

/-- Settles O8: the command the inbox starts with is fetched, its bytes taken out. -/
theorem stepRunsTheNextDeviceCommand : Obligations.StepRunsTheNextDeviceCommand :=
  fun _ _ _ h => step_run (fetch_of_command h)

/-- Settles O9: the decoder rejects the code, and a rejected word is accepted and completed with `ERR_ILLEGAL`. -/
theorem reservedRequestIsAnsweredIllegal : Obligations.ReservedRequestIsAnsweredIllegal := by
  intro s w rest hin hb hr hop
  rcases decodeRequest_cases w with ⟨-, herr⟩ | ⟨hle, -⟩
  · exact step_reserved ((fetch_of_inbox_nil hin).trans (fetchRequest_error hb hr herr))
  · omega

/-- Settles O10: with `BUSY` 1 or no request the port offers nothing. -/
theorem nothingHappensWhenNothingIsAccepted : Obligations.NothingHappensWhenNothingIsAccepted :=
  fun _ hin h => step_idle ((fetch_of_inbox_nil hin).trans (fetchRequest_nothing h))

/-! ### What a request does before it completes -/

/-- `v` is a state an operation begun in `s` can stand in: of the block's registers the operation writes only these. -/
def InOperation (s v : State) : Prop :=
  v = { s with fb := v.fb, inited := v.inited, seq := v.seq, cur := v.cur, gb := v.gb, tb := v.tb, trace := v.trace,
               dev := v.dev, answers := v.answers, answersDrawn := v.answersDrawn }

theorem InOperation.responses {s v : State} (h : InOperation s v) : v.responses = s.responses := by rw [h]

theorem Drawn.inOperation {s v : State} (h : Drawn s v) : InOperation s v := by rw [InOperation, h.frame]

theorem Sent.inOperation {s : State} {fb : Memory} {ms : List (BusMode × List Byte)} {p : Progress}
    (h : Sent (s.withFb fb) ms p) : InOperation s p.state := by
  rw [InOperation, h.frame]; rfl

/-- INIT sends one message (R120). -/
theorem sent_init (s : State) :
    Sent s [(.cmd, initPayload s)] { answer := s.answerAt 0, state := s.transmit .cmd (initPayload s) } :=
  Sent.one s .cmd (initPayload s) s.seq

/-- Every request completes (R24, R32). -/
theorem exec_request {i : Instr} (h : i.port = .request) (s : State) :
    ∃ v st, InOperation s v ∧ exec i s = .next (v.complete st) := by
  rcases instr_cases i with rfl | hi | hi | hi
  · refine ⟨_, _, ?_, exec_init s⟩
    have hf := (sent_init s).frame
    dsimp only at hf
    rw [InOperation, hf]
    rfl
  · rcases exec_guarded i s hi with ⟨st, -, he⟩ | ⟨ms, p, hp, -, he⟩
    · exact ⟨s.withFb (sendsFrom i s), st, rfl, he⟩
    · exact ⟨_, _, hp.inOperation, he.trans (congrArg _ hp.finish)⟩
  · obtain ⟨v, hv, he⟩ := exec_drawing i s hi
    exact ⟨v, .ok, hv.inOperation, he⟩
  · rw [h] at hi; cases hi

/-- Settles O12: a request completes once, and completing gives the response. -/
theorem everyRequestGivesOneResponse : Obligations.EveryRequestGivesOneResponse := by
  intro i s hport
  obtain ⟨v, st, hv, he⟩ := exec_request hport s
  exact ⟨_, he, by simp [hv.responses], rfl, rfl⟩

/-! ### What an instruction leaves unchanged -/

/-- Settles O54: a command is its effect on the mirror. -/
theorem commandsChangeTheDeviceAlone : Obligations.CommandsChangeTheDeviceAlone :=
  fun i s hport => ⟨_, exec_command i s hport, rfl⟩

/-- Settles O28: drawing writes `FB`, the cursor, the glyph registers and `SEQ`, and completes with `OK`. -/
theorem drawingAlwaysSucceedsOffTheBus : Obligations.DrawingAlwaysSucceedsOffTheBus := by
  intro i s hi
  obtain ⟨v, hv, he⟩ := exec_drawing i s hi
  refine ⟨_, he, rfl, ?_⟩
  rw [hv.frame]
  exact ⟨rfl, rfl, rfl, rfl, rfl, rfl, rfl⟩

/-- Settles O52: of the four shapes of an instruction only INIT writes `INITED`. -/
theorem onlyInitWritesInited : Obligations.OnlyInitWritesInited := by
  intro i s t h hne
  rcases instr_cases i with hi | hi | hi | hi
  · exact absurd hi hne
  · rcases exec_guarded i s hi with ⟨st, -, he⟩ | ⟨ms, p, hp, -, he⟩ <;> rw [he] at h <;> cases h
    · rfl
    · rw [hp.finish]; exact hp.inited
  · obtain ⟨v, hv, he⟩ := exec_drawing i s hi
    rw [he] at h; cases h
    rw [State.complete_inited, hv.frame]
  · rw [exec_command i s hi] at h; cases h; rfl

theorem sendsFrom_of_ne_clear {i : Instr} (h : i ≠ .clear) (s : State) : sendsFrom i s = s.fb := by
  unfold sendsFrom
  split
  · exact absurd rfl h
  · rfl

/-- Settles O53: a guarded operation keeps the framebuffer it sends from, which only CLEAR replaces. -/
theorem onlyDrawingAndClearWriteFramebuffer : Obligations.OnlyDrawingAndClearWriteFramebuffer := by
  intro i s t h hdraw hne
  rcases instr_cases i with rfl | hi | hi | hi
  · rw [exec_init] at h; cases h; simp
  · rcases exec_guarded i s hi with ⟨st, -, he⟩ | ⟨ms, p, hp, -, he⟩ <;> rw [he] at h <;> cases h
    · exact sendsFrom_of_ne_clear hne s
    · rw [hp.finish]; exact hp.fb.trans (sendsFrom_of_ne_clear hne s)
  · rw [hdraw] at hi; cases hi
  · rw [exec_command i s hi] at h; cases h; rfl

/-- The messages a guarded operation may send are those R100 lists. -/
theorem isSendable.legal {h64 : Bool} {fb : Memory} {e : Event} (h : isSendable h64 fb (e.mode, e.payload)) :
    isPositionMessage e ∨ isPageDataMessage h64 fb e := by
  rcases h with ⟨p, dc, hp, hdc, he⟩ | ⟨p, hp, he⟩ <;> obtain ⟨hm, hb⟩ := Prod.mk.inj he
  · exact .inl ⟨hm, p, dc, hp, hdc, hb⟩
  · exact .inr ⟨hm, p, hp, hb⟩

/-- Settles O51: INIT sends its one message, a guarded operation sendable ones of the framebuffer it keeps, and nothing
else sends. -/
theorem traceGrowsByLegalMessages : Obligations.TraceGrowsByLegalMessages := by
  intro i s t h
  rcases instr_cases i with rfl | hi | hi | hi
  · rw [exec_init] at h; cases h
    refine ⟨[_], s.transmit_trace .cmd (initPayload s), fun e he => ?_⟩
    rw [List.mem_singleton.mp he]
    exact .inl ⟨rfl, rfl, rfl⟩
  · rcases exec_guarded i s hi with ⟨st, -, he⟩ | ⟨ms, p, hp, hms, he⟩ <;> rw [he] at h <;> cases h
    · exact ⟨[], by simp, by simp⟩
    · rw [hp.finish]
      refine ⟨_, hp.trace, fun e hmem => .inr ?_⟩
      rw [State.complete_fb, hp.fb]
      exact (hms _ (mem_sentEvents hmem)).legal
  · obtain ⟨v, hv, he⟩ := exec_drawing i s hi
    rw [he] at h; cases h
    exact ⟨[], by rw [State.complete_trace, hv.frame]; simp, by simp⟩
  · rw [exec_command i s hi] at h; cases h
    exact ⟨[], by simp, by simp⟩

/-- The variant and the parameters of R38 are the same. -/
def SameParameters (s t : State) : Prop :=
  t.chip = s.chip ∧ t.h64 = s.h64 ∧ t.src = s.src ∧ t.g8 = s.g8 ∧ t.g6 = s.g6 ∧ t.g5 = s.g5 ∧ t.initSeq = s.initSeq

theorem InOperation.sameParameters {s v : State} (h : InOperation s v) : SameParameters s v := by
  rw [h]; exact ⟨rfl, rfl, rfl, rfl, rfl, rfl, rfl⟩

/-- Settles O55: acceptance, an operation, its completion and a command all keep them. -/
theorem variantAndParametersNeverChange : Obligations.VariantAndParametersNeverChange := by
  intro s t h
  show SameParameters s t
  rcases step_cases h with rfl | ⟨w, rest, rfl⟩ | ⟨w, rest, i, hport, he⟩ | ⟨i, bs, hport, he⟩
  · exact ⟨rfl, rfl, rfl, rfl, rfl, rfl, rfl⟩
  · exact ⟨rfl, rfl, rfl, rfl, rfl, rfl, rfl⟩
  · obtain ⟨v, st, hv, hv'⟩ := exec_request hport (s.accept w rest)
    rw [hv'] at he; cases he
    exact hv.sameParameters
  · rw [exec_command i _ hport] at he; cases he
    exact ⟨rfl, rfl, rfl, rfl, rfl, rfl, rfl⟩

/-! ### The device's inbox -/

/-- Messages whose command payloads are whole commands leave an empty inbox empty. -/
theorem Sent.dev_inbox {s : State} {ms : List (BusMode × List Byte)} {p : Progress} (h : Sent s ms p)
    (hd : s.dev.inbox = []) (hms : ∀ m ∈ ms, m.1 = .cmd → (parseCommands m.2).2 = []) : p.state.dev.inbox = [] := by
  rw [h.dev]
  have hall : ∀ e ∈ sentEvents s.answerAt ms, e.mode = .cmd → (parseCommands e.payload).2 = [] :=
    fun e he => hms _ (mem_sentEvents he)
  generalize sentEvents s.answerAt ms = es at hall
  generalize s.dev = d at hd
  induction es generalizing d with
  | nil => exact hd
  | cons e es ih =>
    obtain ⟨he, hes⟩ := List.forall_mem_cons.mp hall
    exact ih hes _ (Dev.deliver_inbox e hd he)

theorem isSendable.parses {h64 : Bool} {fb : Memory} {m : BusMode × List Byte} (h : isSendable h64 fb m)
    (hm : m.1 = .cmd) : (parseCommands m.2).2 = [] := by
  rcases h with ⟨p, dc, hp, hdc, rfl⟩ | ⟨p, hp, rfl⟩
  · rw [parseCommands_posPayload hp hdc]
  · cases hm

/-- No request leaves bytes in the device's inbox. -/
theorem exec_request_inbox {i : Instr} {s t : State} (hport : i.port = .request) (hin : s.dev.inbox = [])
    (h : exec i s = .next t) : t.dev.inbox = [] := by
  rcases instr_cases i with rfl | hi | hi | hi
  · rw [exec_init] at h; cases h
    refine (sent_init s).dev_inbox hin fun m hm _ => ?_
    rw [List.mem_singleton.mp hm]
    exact (parseCommands_initPayload s).1
  · rcases exec_guarded i s hi with ⟨st, -, he⟩ | ⟨ms, p, hp, hms, he⟩ <;> rw [he] at h <;> cases h
    · exact hin
    · rw [hp.finish]; exact hp.dev_inbox hin fun m hm => (hms m hm).parses
  · obtain ⟨v, hv, he⟩ := exec_drawing i s hi
    rw [he] at h; cases h
    rw [State.complete_dev, hv.frame]; exact hin
  · rw [hport] at hi; cases hi

/-- Settles O11: with an empty inbox a step idles, answers a reserved code or carries out a request, and every request
has a next state. -/
theorem theBlockNeverStops : Obligations.TheBlockNeverStops := by
  intro s hin
  rcases fetchRequest_cases s with hf | ⟨w, rest, ⟨i, -, hport, hf⟩ | hf⟩ <;> rw [← fetch_of_inbox_nil hin] at hf
  · exact ⟨s, step_idle hf, hin⟩
  · obtain ⟨v, st, -, he⟩ := exec_request hport (s.accept w rest)
    exact ⟨_, (step_run hf).trans he, exec_request_inbox (s := s.accept w rest) hport hin he⟩
  · exact ⟨_, step_reserved hf, hin⟩

/-! ### The invariant -/

/-- The part of the invariant that holds inside an operation too: what completing it, now and with any status, makes
the invariant of. -/
def State.InvWithin (s : State) : Prop := (s.complete .ok).Inv

theorem State.Inv.within {s : State} (h : s.Inv) : s.InvWithin :=
  { h with not_busy := rfl, seq_start := rfl, status_last := by simp }

theorem State.InvWithin.complete {s : State} (h : s.InvWithin) (st : Status) : (s.complete st).Inv :=
  { h with not_busy := rfl, seq_start := rfl, status_last := by simp }

theorem State.InvWithin.accept {s : State} (h : s.InvWithin) (w : Request) (rest : List Request) :
    (s.accept w rest).InvWithin :=
  { h with status_last := by simp }

theorem State.InvWithin.withInited {s : State} (h : s.InvWithin) (b : Bool) : (s.withInited b).InvWithin :=
  { h with status_last := by simp }

/-- Sending well-formed messages keeps the invariant: the trace gains them, and the device takes or loses them. -/
theorem State.InvWithin.sent {s : State} {ms : List (BusMode × List Byte)} {p : Progress} (hs : s.InvWithin)
    (h : Sent s ms p) (hms : ∀ m ∈ ms, ∀ a, Event.wellFormed ⟨m.1, m.2, a⟩ = true) : p.state.InvWithin := by
  have htrace : p.state.trace.all Event.wellFormed = true := by
    rw [h.trace, List.all_append, Bool.and_eq_true]
    exact ⟨hs.trace_wf, List.all_eq_true.mpr fun e he => hms _ (mem_sentEvents he) e.answer⟩
  have hdev : p.state.dev.Inv s.chip := by
    rw [h.dev]
    exact List.foldlRecOn _ _ hs.dev_inv fun d hd e _ => hd.deliver e
  rw [State.InvWithin, h.frame]
  exact { hs with trace_wf := htrace, dev_inv := hdev, status_last := by simp }

/-- Drawing keeps the invariant: every `setPixel` call and the clear keep `FB` canonical and inside its space. -/
theorem State.InvWithin.drawn {s v : State} (hs : s.InvWithin) (h : Drawn s v) : v.InvWithin := by
  have hwf : v.fb.wf = true :=
    h.fb_keeps (fun fb => fb.wf = true) (fun _ _ _ _ => setPixel_wf _ _ _ _ _) (wf_fbZero _) hs.fb_wf
  have hinside : v.fb.below (fbSize s.h64) = true :=
    h.fb_keeps (fun fb => fb.below (fbSize s.h64) = true) (fun _ _ _ _ => setPixel_below _ _ _ _ _) (below_fbZero _)
      hs.fb_inside
  have hgb := h.gb_length hs.gb_length
  have htb := h.tb_length hs.tb_length
  rw [State.InvWithin, h.frame]
  exact { hs with fb_wf := hwf, fb_inside := hinside, gb_length := hgb, tb_length := htb, status_last := by simp }

/-- The framebuffer a guarded operation sends from is canonical and inside its space. -/
theorem State.InvWithin.withSendsFrom {s : State} (hs : s.InvWithin) (i : Instr) :
    (s.withFb (sendsFrom i s)).InvWithin := by
  by_cases hi : i = .clear
  · subst hi
    exact { hs with fb_wf := wf_fbZero _, fb_inside := below_fbZero _, status_last := by simp }
  · rw [sendsFrom_of_ne_clear hi]; exact hs

@[simp] theorem pageData_length (fb : Memory) (p : Nat) : (pageData fb p).length = 128 := by
  simp [pageData, Config.width]

theorem isSendable.wellFormed {h64 : Bool} {fb : Memory} {m : BusMode × List Byte} (h : isSendable h64 fb m)
    (a : Answer) : Event.wellFormed ⟨m.1, m.2, a⟩ = true := by
  rcases h with ⟨p, dc, -, -, rfl⟩ | ⟨p, -, rfl⟩
  · rfl
  · simp [Event.wellFormed, Config.width]

theorem initMessage_wellFormed (s : State) (a : Answer) : Event.wellFormed ⟨.cmd, initPayload s, a⟩ = true := by
  simp [Event.wellFormed, initPayload_ne_nil, initPayload_length]

/-- A request begun where the invariant holds within an operation ends where it holds. -/
theorem exec_request_inv {i : Instr} {s t : State} (hport : i.port = .request) (hs : s.InvWithin)
    (h : exec i s = .next t) : t.Inv := by
  rcases instr_cases i with rfl | hi | hi | hi
  · rw [exec_init] at h; cases h
    refine State.InvWithin.complete (State.InvWithin.withInited (hs.sent (sent_init s) fun m hm => ?_) _) _
    rw [List.mem_singleton.mp hm]
    exact initMessage_wellFormed s
  · rcases exec_guarded i s hi with ⟨st, -, he⟩ | ⟨ms, p, hp, hms, he⟩ <;> rw [he] at h <;> cases h
    · exact (hs.withSendsFrom i).complete st
    · rw [hp.finish]
      exact ((hs.withSendsFrom i).sent hp fun m hm => (hms m hm).wellFormed).complete _
  · obtain ⟨v, hv, he⟩ := exec_drawing i s hi
    rw [he] at h; cases h
    exact (hs.drawn hv).complete .ok
  · rw [hport] at hi; cases hi

/-- Settles O56: a step idles, completes an accepted word, carries out an accepted request, or gives the device one of
its commands; each keeps the invariant. -/
theorem everyStepKeepsTheInvariant : Obligations.EveryStepKeepsTheInvariant := by
  intro s t hs h
  rcases step_cases h with rfl | ⟨w, rest, rfl⟩ | ⟨w, rest, i, hport, he⟩ | ⟨i, bs, hport, he⟩
  · exact hs
  · exact (hs.within.accept w rest).complete .errIllegal
  · exact exec_request_inv hport (hs.within.accept w rest) he
  · rw [exec_command i _ hport] at he; cases he
    exact { hs with dev_inv := (hs.dev_inv.withInbox bs).command i }

theorem Dev.reset_inv (chip : Chip) : Dev.reset.Inv chip :=
  ⟨rfl, rfl, by decide, by decide, by decide, by decide, by decide, by decide⟩

/-- Settles O57: at power-up every memory is empty and every device register 0; a reset of the block takes its
parameters and device from the old state. -/
theorem resetMeetsTheInvariant : Obligations.ResetMeetsTheInvariant := by
  refine ⟨?powerUp, ?block⟩
  case powerUp =>
    intro chip h64
    exact {
      fb_wf := rfl, fb_inside := rfl, src_wf := rfl, src_inside := rfl, g8_wf := rfl, g8_inside := rfl, g6_wf := rfl
      g6_inside := rfl, g5_wf := rfl, g5_inside := rfl, not_busy := rfl, seq_start := rfl, gb_length := rfl
      tb_length := rfl, trace_wf := rfl, init_legal := nofun, status_last := nofun
      dev_inv := Dev.reset_inv chip }
  case block =>
    intro s fb hs hwf hinside
    exact { hs with
      fb_wf := hwf, fb_inside := hinside, not_busy := rfl, seq_start := rfl, gb_length := rfl, tb_length := rfl
      trace_wf := rfl, status_last := nofun }

/-- Settles O58: reset writes each register as a constant or a strap, and an empty `FB` reads as its power-up bytes; a
reset of the block takes the rest from the old state. -/
theorem resetValues : Obligations.ResetValues := by
  refine ⟨fun chip h64 => ?powerUp, fun s chip h64 fb => ?block⟩
  case powerUp => exact ⟨rfl, rfl, rfl, rfl, rfl, rfl, rfl, fun _ => rfl⟩
  case block => exact ⟨rfl, rfl, rfl, rfl, rfl, rfl, rfl, rfl, rfl, rfl, rfl, rfl, rfl, rfl, rfl, rfl, rfl⟩

end Sys2Proof.Machine

/-! Proofs about pixels and shapes: the address generator (R56), `SetPixel` (R154), lines, rectangles and bitmaps (R160
to R173). -/

namespace Sys2Proof.Machine

/-! ### The address generator, bit by bit -/

/-- Below the sign bit, a two's complement value is its bits' value (R91). -/
theorem toInt_range_iff {n k : Nat} (x : BitVec n) (hk : k < n) :
    (0 ≤ x.toInt ∧ x.toInt < 2 ^ k) ↔ x.toNat < 2 ^ k := by
  have hpow : 2 * 2 ^ k ≤ 2 ^ n := by rw [← Nat.pow_succ']; exact Nat.pow_le_pow_right (by decide) hk
  have hlt := x.isLt
  rw [BitVec.toInt_eq_toNat_cond]
  push_cast
  zify at *
  generalize ((2 : Int) ^ n) = N at *
  generalize ((2 : Int) ^ k) = K at *
  split <;> omega

/-- The high bits from `k` on are zero exactly for the values 0 to 2^k − 1. -/
theorem highBits_eq_zero_iff {n k : Nat} (x : BitVec n) (hk : k < n) :
    x.extractLsb' k (n - k) = 0 ↔ 0 ≤ x.toInt ∧ x.toInt < 2 ^ k := by
  have hmod : x.toNat / 2 ^ k % 2 ^ (n - k) = x.toNat / 2 ^ k := by
    refine Nat.mod_eq_of_lt (Nat.div_lt_of_lt_mul ?_)
    rw [← Nat.pow_add, Nat.add_sub_cancel' hk.le]
    exact x.isLt
  rw [toInt_range_iff x hk, ← BitVec.toNat_inj, BitVec.extractLsb'_toNat, Nat.shiftRight_eq_div_pow, hmod]
  simp

theorem toNat_of_toInt_eq {n a : Nat} {x : BitVec n} (h : x.toInt = a) : x.toNat = a := by
  have hlt := x.isLt
  rw [BitVec.toInt_eq_toNat_cond] at h
  split at h <;> omega

/-- The test of the high bits is the test of the display's bounds (R55, R56). -/
theorem pagBits_valid_iff {h64 : Bool} {n : Nat} (x y : BitVec n) (hn : 8 ≤ n) :
    (x.extractLsb' 7 (n - 7) = 0 ∧
      (if h64 then y.extractLsb' 6 (n - 6) = 0 else y.extractLsb' 5 (n - 5) = 0)) ↔
    0 ≤ x.toInt ∧ x.toInt < 128 ∧ 0 ≤ y.toInt ∧ y.toInt < height h64 := by
  have hx := highBits_eq_zero_iff x (show 7 < n by omega)
  cases h64 with
  | false =>
    have hy := highBits_eq_zero_iff y (show 5 < n by omega)
    simp only [Bool.false_eq_true, if_false, hx, hy, height, and_assoc]
    norm_num
  | true =>
    have hy := highBits_eq_zero_iff y (show 6 < n by omega)
    simp only [if_true, hx, hy, height, and_assoc]
    norm_num

theorem pagBits_off {h64 : Bool} {n : Nat} {x y : BitVec n} (hn : 8 ≤ n)
    (h : ¬ (0 ≤ x.toInt ∧ x.toInt < 128 ∧ 0 ≤ y.toInt ∧ y.toInt < height h64)) : pagBits h64 x y = none :=
  if_neg ((pagBits_valid_iff x y hn).not.mpr h)

/-- At a display pixel the slices `y[5:3]`, `x[6:0]` and `y[2:0]` are its page, column and bit (R56). -/
theorem pagBits_on {h64 : Bool} {n px py : Nat} {x y : BitVec n} (hn : 8 ≤ n) (hpx : px < 128) (hpy : py < height h64)
    (hx : x.toInt = px) (hy : y.toInt = py) :
    pagBits h64 x y = some { page := py / 8, col := px, bit := py % 8 } := by
  have hheight := height_cases h64
  rw [pagBits, if_pos ((pagBits_valid_iff x y hn).mpr (by omega))]
  simp only [BitVec.extractLsb'_toNat, toNat_of_toInt_eq hx, toNat_of_toInt_eq hy, Nat.shiftRight_eq_div_pow,
    Option.some.injEq, PixelPos.mk.injEq]
  omega

/-- Settles O13: off the display both forms give nothing; at a display pixel both give its page, column and bit, and the
concatenated slices are the address. -/
theorem addressGeneratorBitForm : Obligations.AddressGeneratorBitForm := by
  intro h64 n x y hn
  by_cases h : 0 ≤ x.toInt ∧ x.toInt < 128 ∧ 0 ≤ y.toInt ∧ y.toInt < height h64
  · obtain ⟨px, hx⟩ := Int.eq_ofNat_of_zero_le h.1
    obtain ⟨py, hy⟩ := Int.eq_ofNat_of_zero_le h.2.2.1
    have hheight := height_cases h64
    have hpx : px < 128 := by omega
    have hpy : py < height h64 := by omega
    rw [pagBits_on hn hpx hpy hx hy, hx, hy, pag_on hpx hpy]
    refine ⟨rfl, fun p hp => ?_⟩
    cases hp
    have hyn := toNat_of_toInt_eq hy
    have hxn := toNat_of_toInt_eq hx
    refine ⟨?address, ?mask, ?page⟩
    case address =>
      rw [BitVec.toNat_append, BitVec.extractLsb'_toNat, BitVec.extractLsb'_toNat, hxn, hyn,
        ← Nat.shiftLeft_add_eq_or_of_lt (Nat.mod_lt _ (by decide)), Nat.shiftLeft_eq, Nat.shiftRight_eq_div_pow,
        Nat.shiftRight_zero, fbAddr, Config.width]
      dsimp only
      omega
    case mask => rw [BitVec.extractLsb'_toNat, hyn, Nat.shiftRight_zero]
    case page =>
      rintro rfl
      simp only [height, Bool.false_eq_true, if_false] at hpy
      rw [BitVec.extractLsb'_toNat, hyn, Nat.shiftRight_eq_div_pow]
      show py / 8 = _
      omega
  · rw [pagBits_off hn h, pag_off h]
    exact ⟨rfl, nofun⟩

/-! ### Laws of `SetPixel` -/

/-- Settles O15: compared pixel by pixel, the colours are those of the last call at the pixel; outside `FB` no call
stores anything. -/
theorem setPixelCallsCommute : Obligations.SetPixelCallsCommute := by
  intro h64 fb x y x' y' c c'
  refine ⟨fun hne => ?commute, ?laterWins, fun hoff => setPixel_off (pag_off hoff) c fb⟩
  case commute =>
    refine fbRead_ext_of_pixels h64 _ _ (fun px py hx hy => ?_) fun a ha => ?_
    · simp only [fbPixel_setPixel h64 _ _ _ _ hx hy]
      split_ifs with h' h
      · omega
      all_goals rfl
    · simp only [fbRead_setPixel_outside h64 _ _ _ _ ha]
  case laterWins =>
    refine fbRead_ext_of_pixels h64 _ _ (fun px py hx hy => ?_) fun a ha => ?_
    · simp only [fbPixel_setPixel h64 _ _ _ _ hx hy]
      split_ifs <;> rfl
    · simp only [fbRead_setPixel_outside h64 _ _ _ _ ha]

/-! ### Lines -/

theorem exec_drawhline (color : Bool) (x y w : BitVec 16) (s : State) :
    exec (.drawhline color x y w) s =
      .next ((s.withFb (hLine s.h64 (signed x) (signed y) (unsigned w) color s.fb)).complete .ok) := rfl

theorem exec_drawvline (color : Bool) (x y w : BitVec 16) (s : State) :
    exec (.drawvline color x y w) s =
      .next ((s.withFb (vLine s.h64 (signed x) (signed y) (unsigned w) color s.fb)).complete .ok) := rfl

/-- A row of `setPixel` calls with no clipping colours what the clipped line does (R165). -/
theorem fbRead_hLine_eq_unclipped (h64 : Bool) (x y : Int) (len : Nat) (color : Bool) (fb : Memory) (a : Nat) :
    fbRead (hLine h64 x y len color fb) a =
      fbRead (forUp len (fun i fb => setPixel h64 (x + i) y color fb) fb) a := by
  refine fbRead_ext_of_pixels h64 _ _ (fun px py hx hy => ?pixels) (fun a ha => ?outside) a
  case pixels =>
    rw [fbPixel_hLine h64 x y len color fb hx hy]
    split
    next hit =>
      exact (fbPixel_forUp_hit h64 (fun i => x + i) (fun _ => y) (fun _ => color) len fb hx hy
        (i := ((px : Int) - x).toNat) (by omega) ⟨by omega, by omega⟩ fun _ _ _ => rfl).symm
    next miss =>
      exact (fbPixel_forUp_miss h64 (fun i => x + i) (fun _ => y) (fun _ => color) len fb hx hy (by omega)).symm
  case outside =>
    have hP : ∀ u v c g, fbRead g a = fbRead fb a → fbRead (setPixel h64 u v c g) a = fbRead fb a :=
      fun u v c g hg => (fbRead_setPixel_outside h64 u v c g ha).trans hg
    rw [hLine_keeps (fun g => fbRead g a = fbRead fb a) h64 x y len color fb hP rfl]
    exact (forUp_keeps (fun g => fbRead g a = fbRead fb a) _ len fb rfl fun _ g _ hg => hP _ _ _ g hg).symm

/-- Settles O18: the pixels and bytes of a clipped line, which the loop that clips nothing colours alike. -/
theorem horizontalLineEffect : Obligations.HorizontalLineEffect := by
  intro s color x y w
  refine ⟨_, exec_drawhline color x y w s, ?pixels, ?unclipped, ?bytes, s.complete_withFb_frame _ .ok⟩
  case pixels => exact fun _ _ hx hy => fbPixel_hLine s.h64 _ _ _ color s.fb hx hy
  case unclipped => exact fbRead_hLine_eq_unclipped s.h64 _ _ _ color s.fb
  case bytes => exact fun _ ha => fbRead_hLine_other s.h64 _ _ _ color s.fb ha

/-- Settles O19: the pixels and bytes of a clipped line. -/
theorem verticalLineEffect : Obligations.VerticalLineEffect := by
  intro s color x y w
  refine ⟨_, exec_drawvline color x y w s, ?pixels, ?bytes, s.complete_withFb_frame _ .ok⟩
  case pixels => exact fun _ _ hx hy => fbPixel_vLine s.h64 _ _ _ color s.fb hx hy
  case bytes => exact fun _ ha => fbRead_vLine_other s.h64 _ _ _ color s.fb ha

/-! ### Rectangles -/

theorem exec_drawrect (color : Bool) (x y w h : BitVec 16) (s : State) :
    exec (.drawrect color x y w h) s =
      .next ((s.withFb (drawRect s.h64 (signed x) (signed y) (unsigned w) (unsigned h) color s.fb)).complete .ok) := rfl

theorem drawRect_of_zero {h64 : Bool} {x y : Int} {w h : Nat} {color : Bool} {fb : Memory} (hz : w = 0 ∨ h = 0) :
    drawRect h64 x y w h color fb = fb := if_pos hz

theorem drawRect_of_pos {h64 : Bool} {x y : Int} {w h : Nat} {color : Bool} {fb : Memory} (hz : ¬ (w = 0 ∨ h = 0)) :
    drawRect h64 x y w h color fb =
      vLine h64 (x + w - 1) y h color
        (vLine h64 x y h color (hLine h64 x (y + h - 1) w color (hLine h64 x y w color fb))) :=
  if_neg hz

/-- The pixels of the outline are those of its four sides (R172, R173). -/
theorem fbPixel_drawRect (h64 : Bool) (x y : Int) (w h : Nat) (color : Bool) (fb : Memory) {px py : Nat} (hx : px < 128)
    (hy : py < height h64) :
    fbPixel (drawRect h64 x y w h color fb) px py =
      if (x ≤ px ∧ (px : Int) ≤ x + w - 1 ∧ y ≤ py ∧ (py : Int) ≤ y + h - 1) ∧
         ((px : Int) = x ∨ (px : Int) = x + w - 1 ∨ (py : Int) = y ∨ (py : Int) = y + h - 1) then color
      else fbPixel fb px py := by
  by_cases hz : w = 0 ∨ h = 0
  · rw [drawRect_of_zero hz, if_neg (by omega)]
  · rw [drawRect_of_pos hz, fbPixel_vLine h64 _ _ _ _ _ hx hy, fbPixel_vLine h64 _ _ _ _ _ hx hy,
      fbPixel_hLine h64 _ _ _ _ _ hx hy, fbPixel_hLine h64 _ _ _ _ _ hx hy]
    by_cases hout : (x ≤ px ∧ (px : Int) ≤ x + w - 1 ∧ y ≤ py ∧ (py : Int) ≤ y + h - 1) ∧
        ((px : Int) = x ∨ (px : Int) = x + w - 1 ∨ (py : Int) = y ∨ (py : Int) = y + h - 1)
    · rw [if_pos hout]
      split_ifs with hright hleft hbottom htop
      case neg => omega
      all_goals rfl
    · rw [if_neg hout, if_neg (by omega), if_neg (by omega), if_neg (by omega), if_neg (by omega)]

theorem fbRead_drawRect_other (h64 : Bool) (x y : Int) (w h : Nat) (color : Bool) (fb : Memory) {a : Nat}
    (hrows : ∀ i : Nat, i < w → pixelAddr h64 (x + i) y ≠ some a ∧ pixelAddr h64 (x + i) (y + h - 1) ≠ some a)
    (hcols : ∀ i : Nat, i < h → pixelAddr h64 x (y + i) ≠ some a ∧ pixelAddr h64 (x + w - 1) (y + i) ≠ some a) :
    fbRead (drawRect h64 x y w h color fb) a = fbRead fb a := by
  by_cases hz : w = 0 ∨ h = 0
  · rw [drawRect_of_zero hz]
  · rw [drawRect_of_pos hz, fbRead_vLine_other h64 _ _ _ _ _ fun i hi => (hcols i hi).2,
      fbRead_vLine_other h64 _ _ _ _ _ fun i hi => (hcols i hi).1,
      fbRead_hLine_other h64 _ _ _ _ _ fun i hi => (hrows i hi).2,
      fbRead_hLine_other h64 _ _ _ _ _ fun i hi => (hrows i hi).1]

/-- Settles O20: four clipped lines colour the outline; with a zero side none is drawn. -/
theorem rectangleEffect : Obligations.RectangleEffect := by
  intro s color x y w h
  refine ⟨_, exec_drawrect color x y w h s, ?pixels, ?bytes, drawRect_of_zero, s.complete_withFb_frame _ .ok⟩
  case pixels => exact fun _ _ hx hy => fbPixel_drawRect s.h64 _ _ _ _ color s.fb hx hy
  case bytes => exact fun _ hrows hcols => fbRead_drawRect_other s.h64 _ _ _ _ color s.fb hrows hcols

/-! ### Bitmaps -/

theorem exec_drawbitmap (x y w h : BitVec 16) (ptr : BitVec 32) (s : State) :
    exec (.drawbitmap x y w h ptr) s =
      .next ((s.withFb (drawBitmap s.h64 s.src ptr (signed x) (signed y) (unsigned w) (unsigned h)
        s.fb)).complete .ok) := rfl

/-- Inside the rectangle a pixel has its source bit, outside its old one (R163). -/
theorem fbPixel_drawBitmap (h64 : Bool) (src : Memory) (ptr : BitVec 32) (x y : Int) (w h : Nat) (fb : Memory)
    {px py : Nat} (hx : px < 128) (hy : py < height h64) :
    fbPixel (drawBitmap h64 src ptr x y w h fb) px py =
      if x ≤ px ∧ (px : Int) < x + w ∧ y ≤ py ∧ (py : Int) < y + h then
        bitmapBit src ptr w ((px : Int) - x).toNat ((py : Int) - y).toNat
      else fbPixel fb px py := by
  split
  next hin =>
    refine fbPixel_forUp2_hit h64 (fun _ col => x + (col : Int)) (fun row _ => y + (row : Int))
      (fun row col => bitmapBit src ptr w col row) h w fb hx hy (i := ((py : Int) - y).toNat)
      (j := ((px : Int) - x).toNat) (by omega) (by omega) ⟨by omega, by omega⟩ ?_
    intro row col _ _ hit
    rw [show col = ((px : Int) - x).toNat by omega, show row = ((py : Int) - y).toNat by omega]
  next hout =>
    exact fbPixel_forUp2_miss h64 (fun _ col => x + (col : Int)) (fun row _ => y + (row : Int))
      (fun row col => bitmapBit src ptr w col row) h w fb hx hy (by omega)

/-- Settles O21: the loops plot each pixel of the rectangle once, with its source bit. -/
theorem bitmapEffect : Obligations.BitmapEffect := by
  intro s x y w h ptr
  refine ⟨_, exec_drawbitmap x y w h ptr s, ?pixels, ?bytes, s.complete_withFb_frame _ .ok⟩
  case pixels => exact fun _ _ hx hy => fbPixel_drawBitmap s.h64 s.src ptr _ _ _ _ s.fb hx hy
  case bytes =>
    exact fun a ha => fbRead_forUp2_other s.h64 (fun _ col => signed x + (col : Int))
      (fun row _ => signed y + (row : Int)) (fun row col => bitmapBit s.src ptr (unsigned w) col row) _ _ s.fb
      fun row col hrow hcol => ha col row hcol hrow

/-- Exchanging the two loops of `setPixel` calls changes no byte, if calls at one pixel carry one colour (R161). -/
theorem fbRead_forUp2_swap (h64 : Bool) (fx fy : Nat → Nat → Int) (col : Nat → Nat → Bool) (m n : Nat) (fb : Memory)
    (hsame : ∀ i j i' j', fx i j = fx i' j' → fy i j = fy i' j' → col i j = col i' j') (a : Nat) :
    fbRead (forUp m (fun i fb => forUp n (fun j fb => setPixel h64 (fx i j) (fy i j) (col i j) fb) fb) fb) a =
      fbRead (forUp n (fun j fb => forUp m (fun i fb => setPixel h64 (fx i j) (fy i j) (col i j) fb) fb) fb) a := by
  refine fbRead_ext_of_pixels h64 _ _ (fun px py hx hy => ?pixels) (fun a ha => ?outside) a
  case pixels =>
    by_cases h : ∃ i j, i < m ∧ j < n ∧ fx i j = px ∧ fy i j = py
    · obtain ⟨i, j, hi, hj, hit⟩ := h
      have hcol : ∀ i' j', fx i' j' = px ∧ fy i' j' = py → col i' j' = col i j :=
        fun i' j' h' => hsame _ _ _ _ (h'.1.trans hit.1.symm) (h'.2.trans hit.2.symm)
      rw [fbPixel_forUp2_hit h64 fx fy col m n fb hx hy hi hj hit fun i' j' _ _ => hcol i' j']
      exact (fbPixel_forUp2_hit h64 (fun j i => fx i j) (fun j i => fy i j) (fun j i => col i j) n m fb hx hy hj hi hit
        fun j' i' _ _ => hcol i' j').symm
    · rw [fbPixel_forUp2_miss h64 fx fy col m n fb hx hy fun i j hi hj hit => h ⟨i, j, hi, hj, hit⟩]
      exact (fbPixel_forUp2_miss h64 (fun j i => fx i j) (fun j i => fy i j) (fun j i => col i j) n m fb hx hy
        fun j i hj hi hit => h ⟨i, j, hi, hj, hit⟩).symm
  case outside =>
    have hP : ∀ u v c g, fbRead g a = fbRead fb a → fbRead (setPixel h64 u v c g) a = fbRead fb a :=
      fun u v c g hg => (fbRead_setPixel_outside h64 u v c g ha).trans hg
    rw [forUp2_setPixel_keeps (fun g => fbRead g a = fbRead fb a) h64 fx fy col m n fb hP rfl]
    exact (forUp2_setPixel_keeps (fun g => fbRead g a = fbRead fb a) h64 (fun j i => fx i j) (fun j i => fy i j)
      (fun j i => col i j) n m fb hP rfl).symm

/-- Settles O22: two calls of the loops at one pixel are the same call. -/
theorem bitmapOrderIsUnobservable : Obligations.BitmapOrderIsUnobservable := by
  intro h64 src ptr x y w h fb a
  refine fbRead_forUp2_swap h64 (fun _ col => x + (col : Int)) (fun row _ => y + (row : Int))
    (fun row col => bitmapBit src ptr w col row) h w fb (fun row col row' col' hcol hrow => ?_) a
  rw [show col = col' by omega, show row = row' by omega]

end Sys2Proof.Machine

/-! Proofs about the glyph renderer: the transposer (R180, R181), characters (R184 to R187) and strings (R191 to
R194). -/

namespace Sys2Proof.Machine

/-! ### The transposer -/

/-- Bit `ry` of column `cx` is bit `cx` of row `ry` (R180). -/
theorem transpose_getLsbD (rows : List Byte) {width height cx ry : Nat} (hh : height ≤ 8) (hcx : cx < width)
    (hry : ry < 8) :
    ((transpose rows width height).getD cx 0).getLsbD ry = (decide (ry < height) && (rows.getD ry 0).getLsbD cx) := by
  have hcol : (transpose rows width height).getD cx 0 =
      forUp height (fun ry out => if (rows.getD ry 0).getLsbD cx then out ||| (1#8 <<< ry) else out) 0#8 := by
    simp [transpose, hcx]
  rw [hcol]
  exact getLsbD_orLoop (fun ry => (rows.getD ry 0).getLsbD cx) height hh ry hry

/-- Settles O23: a column is built by or-ing in one bit per row. -/
theorem transposerBits : Obligations.TransposerBits :=
  fun rows width height _ _ _ _ hh => ⟨transpose_length rows width height, fun _ _ => transpose_getLsbD rows hh⟩

/-- Two lists of 8 bytes with the same 64 bits are equal. -/
theorem bytes_ext {as bs : List Byte} (ha : as.length = 8) (hb : bs.length = 8)
    (h : ∀ k ry, k < 8 → ry < 8 → (as.getD k 0).getLsbD ry = (bs.getD k 0).getLsbD ry) : as = bs := by
  refine List.ext_getElem (ha.trans hb.symm) fun k hka hkb => BitVec.eq_of_getLsbD_eq fun ry hry => ?_
  have := h k ry (ha ▸ hka) hry
  rwa [List.getD_eq_getElem _ _ hka, List.getD_eq_getElem _ _ hkb] at this

/-- Settles O24: exchanging rows and columns twice gives every bit back; of eight full rows five columns keep five bits
each. -/
theorem transposerIsSelfInverse : Obligations.TransposerIsSelfInverse := by
  refine ⟨fun rows hrows => ?selfInverse, List.replicate 8 0xFF#8, by decide, by decide⟩
  case selfInverse =>
    refine bytes_ext (transpose_length ..) hrows fun k ry hk hry => ?_
    rw [transpose_getLsbD _ le_rfl hk hry, transpose_getLsbD _ le_rfl hry hk]
    simp [hk, hry]

/-! ### Characters -/

theorem exec_charInstr (font : Font) (ch : BitVec 8) (x y : BitVec 16) (s : State) :
    exec (charInstr font ch x y) s = .next ((drawChar font (signed x) (signed y) ch s).complete .ok) := by
  cases font <;> rfl

theorem glyphBytes_getElem? (s : State) (font : Font) (c : Byte) {k : Nat} (hk : k < glyphCols font) :
    (glyphBytes s font c)[k]? = some (glyphRead s font (glyphIndex c) k) := by
  simp [glyphBytes, hk]

/-- The columns blitted hold the glyph's pixels: font 8's are the transpose of its rows (R184), the others are stored
by columns (R185, R186). -/
theorem glyphColumns_getLsbD (s : State) (font : Font) (c : Byte) {col row : Nat} (hcol : col < glyphCols font)
    (hrow : row < 8) : ((glyphColumns s font c).getD col 0).getLsbD row = glyphPixel s font c col row := by
  cases font with
  | f8 =>
    rw [glyphColumns, transpose_getLsbD (width := 8) _ le_rfl hcol hrow, List.getD_eq_getElem?_getD,
      glyphBytes_getElem? s .f8 c hrow]
    simp [hrow, glyphPixel]
  | f6 => rw [glyphColumns, List.getD_eq_getElem?_getD, glyphBytes_getElem? s .f6 c hcol]; rfl
  | f5 => rw [glyphColumns, List.getD_eq_getElem?_getD, glyphBytes_getElem? s .f5 c hcol]; rfl

/-- A character gives the display pixels of its cell the glyph's bits and keeps the others (R187). -/
theorem fbPixel_blit_glyph (s : State) (font : Font) (c : Byte) (x y : Int) (fb : Memory) {px py : Nat} (hx : px < 128)
    (hy : py < height s.h64) :
    fbPixel (blit s.h64 x y (glyphColumns s font c) (glyphCols font) fb) px py =
      if x ≤ px ∧ (px : Int) < x + glyphCols font ∧ y ≤ py ∧ (py : Int) < y + 8 then
        glyphPixel s font c ((px : Int) - x).toNat ((py : Int) - y).toNat
      else fbPixel fb px py := by
  rw [fbPixel_blit s.h64 x y _ _ fb hx hy]
  split
  next h => exact glyphColumns_getLsbD s font c (by omega) (by omega)
  next => rfl

theorem drawChar_gb (font : Font) (x y : Int) (c : Byte) (s : State) :
    (drawChar font x y c s).gb = glyphBytes s font c ++ s.gb.drop (glyphCols font) := by
  cases font <;> simp [drawChar]

theorem drawChar_f8_tb (x y : Int) (c : Byte) (s : State) :
    (drawChar .f8 x y c s).tb = glyphColumns s .f8 c ++ s.tb.drop 8 := by
  simp [drawChar, glyphColumns]

/-- Fonts 6 and 5 are not transposed (R188). -/
theorem drawChar_tb_of_ne {font : Font} (h : font ≠ .f8) (x y : Int) (c : Byte) (s : State) :
    (drawChar font x y c s).tb = s.tb := by
  cases font <;> first | rfl | exact absurd rfl h

/-- Settles O26: a character is one blit of its columns; the buffers take the stored bytes and font 8's columns. -/
theorem characterEffect : Obligations.CharacterEffect := by
  intro s font ch x y
  refine ⟨_, exec_charInstr font ch x y s, ?pixels, ?bytes, ?gb, ?tb, fun h => drawChar_tb_of_ne h _ _ ch s, ?frame⟩
  case pixels =>
    intro px py hx hy
    rw [State.complete_fb, drawChar_fb]
    exact fbPixel_blit_glyph s font ch _ _ s.fb hx hy
  case bytes =>
    intro a ha
    rw [State.complete_fb, drawChar_fb]
    exact fbRead_blit_other s.h64 _ _ _ _ s.fb ha
  case gb =>
    intro k hk
    rw [State.complete_gb, drawChar_gb, List.getElem?_append_left (by simpa using hk), glyphBytes_getElem? s font ch hk]
  case tb =>
    rintro rfl k hk
    rw [State.complete_tb, drawChar_f8_tb, List.getElem?_append_left (by simpa [glyphColumns] using hk)]
  case frame => exact congrArg (State.complete .ok) (drawChar_frame font _ _ ch s)

/-! ### Strings -/

theorem exec_strInstr (font : Font) (x y w : BitVec 16) (ptr : BitVec 32) (s : State) :
    exec (strInstr font x y w ptr) s =
      .next ((drawString font (signed x) (signed y) (unsigned w) ptr s).complete .ok) := by
  cases font <;> rfl

/-- Cells of a string do not overlap: each begins at least a glyph's width after the one before (R190). -/
theorem add_glyphCols_le_of_lt (font : Font) {k n : Nat} (h : k < n) :
    (advance font * k + glyphCols font : Int) ≤ advance font * n := by
  cases font <;> simp only [advance, glyphCols] <;> omega

/-- Each character of a string keeps the cells drawn before it, so its own cell holds its glyph at the end (R194). -/
theorem fbPixel_drawString_hit (font : Font) (x y : Int) (ptr : BitVec 32) (s : State) {n k col row px py : Nat}
    (hx : px < 128) (hy : py < height s.h64) (hk : k < n) (hcol : col < glyphCols font) (hrow : row < 8)
    (hpx : (px : Int) = x + advance font * k + col) (hpy : (py : Int) = y + row) :
    fbPixel (drawString font x y n ptr s).fb px py = glyphPixel s font (textByte s ptr k) col row := by
  induction n with
  | zero => omega
  | succ n ih =>
    rw [drawString_succ_fb, fbPixel_blit_glyph s font _ _ _ _ hx hy]
    rcases Nat.lt_succ_iff_lt_or_eq.mp hk with hlt | rfl
    · have := add_glyphCols_le_of_lt font hlt
      rw [if_neg (by omega)]
      exact ih hlt
    · rw [if_pos (by omega), show ((px : Int) - (x + advance font * k)).toNat = col by omega,
        show ((py : Int) - y).toNat = row by omega]

theorem fbPixel_drawString_miss (font : Font) (x y : Int) (ptr : BitVec 32) (s : State) {n px py : Nat}
    (hx : px < 128) (hy : py < height s.h64)
    (hmiss : ∀ k col row : Nat, k < n → col < glyphCols font → row < 8 →
      ¬ ((px : Int) = x + advance font * k + col ∧ (py : Int) = y + row)) :
    fbPixel (drawString font x y n ptr s).fb px py = fbPixel s.fb px py := by
  induction n with
  | zero => rfl
  | succ n ih =>
    rw [drawString_succ_fb, fbPixel_blit_glyph s font _ _ _ _ hx hy, if_neg]
    · exact ih fun k col row hk => hmiss k col row (by omega)
    · intro hin
      exact hmiss n ((px : Int) - (x + advance font * n)).toNat ((py : Int) - y).toNat (by omega) (by omega) (by omega)
        (by omega)

theorem fbRead_drawString_other (font : Font) (x y : Int) (ptr : BitVec 32) (s : State) {n a : Nat}
    (hmiss : ∀ k col row : Nat, k < n → col < glyphCols font → row < 8 →
      pixelAddr s.h64 (x + advance font * k + col) (y + row) ≠ some a) :
    fbRead (drawString font x y n ptr s).fb a = fbRead s.fb a := by
  induction n with
  | zero => rfl
  | succ n ih =>
    rw [drawString_succ_fb, fbRead_blit_other s.h64 _ _ _ _ _ fun col row => hmiss n col row (by omega)]
    exact ih fun k col row hk => hmiss k col row (by omega)

theorem drawString_tb_of_ne {font : Font} (h : font ≠ .f8) (x y : Int) (n : Nat) (ptr : BitVec 32) (s : State) :
    (drawString font x y n ptr s).tb = s.tb :=
  drawString_keeps (fun t => t.tb = s.tb) font x y ptr s n rfl fun k t ht =>
    (drawChar_tb_of_ne h t.cur.x y (textByte t ptr k) (t.withSeq { t.seq with k := k })).trans ht

/-- Settles O27: character by character, each blit fills its own cell and keeps the cells before it; the frame says
where the cursor ends. -/
theorem stringEffect : Obligations.StringEffect := by
  intro s font x y w ptr
  have hframe := drawString_frame font (signed x) (signed y) ptr s (unsigned w)
  refine ⟨_, exec_strInstr font x y w ptr s, ?cells, ?others, ?bytes, ?cursor, ?tb, ?frame⟩
  case cells =>
    intro px py k col row hx hy hk hcol hrow hpx hpy
    exact fbPixel_drawString_hit font _ _ ptr s hx hy hk hcol hrow hpx hpy
  case others => exact fun px py hx hy hmiss => fbPixel_drawString_miss font _ _ ptr s hx hy hmiss
  case bytes => exact fun a hmiss => fbRead_drawString_other font _ _ ptr s hmiss
  case cursor => rw [State.complete_cur, hframe]
  case tb => exact fun h => drawString_tb_of_ne h _ _ _ ptr s
  case frame => rw [hframe]; rfl

end Sys2Proof.Machine

/-! Proofs about the display controller: SETPOS, FLUSHPAGE, FLUSH and CLEAR (R130 to R140, R151), the `INITED` test
(R234), and the initialisation sequences (R122 to R127). -/

namespace Sys2Proof.Machine

/-! ### Payloads -/

/-- Settles O44: each of the three bytes is its command's fixed bits before the page or the column's nibble (R104). -/
theorem positionPayloadBytes : Obligations.PositionPayloadBytes := by
  intro p dc hp hdc
  have hpage : ∀ p : Fin 8, (0b10110#5 ++ BitVec.ofNat 3 p : Byte) = BitVec.ofNat 8 (0xB0 + p) := by decide
  have hlow : ∀ n : Fin 16, (0x0#4 ++ BitVec.ofNat 4 n : Byte) = BitVec.ofNat 8 n := by decide
  have hhigh : ∀ n : Fin 16, (0x1#4 ++ BitVec.ofNat 4 n : Byte) = BitVec.ofNat 8 (0x10 + n) := by decide
  exact congrArg₂ List.cons (hpage ⟨p, hp⟩) (congrArg₂ List.cons (hlow ⟨dc % 16, by omega⟩)
    (congrArg₂ List.cons (hhigh ⟨dc / 16, by omega⟩) rfl))

theorem pages_le (h64 : Bool) : pages h64 ≤ 8 := by cases h64 <;> decide

theorem pageSends_eq_pageMessages {chip : Chip} {p : Nat} (fb : Memory) (hp : p < 8) :
    pageSends chip fb p = pageMessages chip fb p := by
  cases chip with
  | ssd1306 => rfl
  | sh1106 =>
    have hpos := positionPayloadBytes p 2 hp (by decide)
    exact congrArg (fun bs => [(BusMode.cmd, bs), (.data, pageData fb p)]) hpos

theorem flatMap_pageSends (chip : Chip) (h64 : Bool) (fb : Memory) :
    (List.range (pages h64)).flatMap (pageSends chip fb) = flushMessages chip h64 fb := by
  refine List.flatMap_congr fun p hp => pageSends_eq_pageMessages fb ?_
  have := List.mem_range.mp hp
  have := pages_le h64
  omega

/-! ### What a sending operation leaves -/

/-- The state an operation that sends the messages `ms` ends in: the trace gains the events up to the first failing one,
the device takes them, their answers are used up, and the status tells whether one failed (R138, R139). -/
def State.afterSending (s : State) (ms : List (BusMode × List Byte)) : State :=
  { s with
    trace := s.trace ++ sentEvents s.answerAt ms
    dev := (sentEvents s.answerAt ms).foldl (fun d e => d.deliver s.chip e) s.dev
    answers := s.answers.drop (sentEvents s.answerAt ms).length
    answersDrawn := s.answersDrawn + ((sentEvents s.answerAt ms).length - s.answers.length)
    status := sentStatus s.answerAt ms.length, busy := false, seq := Seq.start
    responses := s.responses ++ [sentStatus s.answerAt ms.length] }

theorem Sent.finish_eq_afterSending {s : State} {ms : List (BusMode × List Byte)} {p : Progress} (h : Sent s ms p) :
    p.finish = s.afterSending ms := by
  rw [h.finish, h.frame, h.trace, h.dev, h.answers, h.drawn]
  rfl

theorem sentStatus_eq_ok_iff {answer : Nat → Answer} {n : Nat} :
    sentStatus answer n = .ok ↔ leadingOk answer n = n := by simp [sentStatus]

theorem exec_setpos_of_inRange {s : State} {x y : BitVec 16} (hi : s.inited = true)
    (h : 0 ≤ signed x ∧ signed x < 128 ∧ 0 ≤ signed y ∧ signed y < pages s.h64) :
    exec (.setpos x y) s =
      .next (s.afterSending [(.cmd, posPayload (signed y).toNat ((signed x).toNat + colOff s.chip))]) := by
  have hr : posInRange s.h64 (signed x) (signed y) = true := decide_eq_true h
  have hs := Sent.one s .cmd (posPayload (signed y).toNat (deviceColumn s.chip (signed x).toNat)) s.seq
  simp only [exec, execSetpos, hi, hr, if_true]
  exact congrArg _ hs.finish_eq_afterSending

theorem exec_flushpage_of_lt {s : State} {ch : BitVec 8} (hi : s.inited = true) (h : ch.toNat < pages s.h64) :
    exec (.flushpage ch) s = .next (s.afterSending (pageMessages s.chip s.fb ch.toNat)) := by
  have hp : ch.toNat < 8 := h.trans_le (pages_le _)
  simp only [exec, execFlushpage, hi, h, if_true, (sent_sendPage ch.toNat s).finish_eq_afterSending,
    pageSends_eq_pageMessages s.fb hp]

theorem exec_flush_of_inited {s : State} (hi : s.inited = true) :
    exec .flush s = .next (s.afterSending (flushMessages s.chip s.h64 s.fb)) := by
  simp only [exec, execFlush, hi, if_true, (sent_sendPages (pages s.h64) s).finish_eq_afterSending, flatMap_pageSends]

theorem exec_clear_of_inited {s : State} (hi : s.inited = true) :
    exec .clear s =
      .next ((s.withFb (fbZero s.h64)).afterSending (flushMessages s.chip s.h64 (fbZero s.h64))) := by
  simp only [exec, execClear, hi, if_true,
    (sent_sendPages (pages s.h64) (s.withFb (fbZero s.h64))).finish_eq_afterSending, State.withFb_chip, State.withFb_fb,
    flatMap_pageSends]

/-! ### Operations that need `INITED` -/

theorem exec_flush_of_not_inited {s : State} (hi : s.inited = false) :
    exec .flush s = .next (s.complete .errNotInit) := by
  simp [exec, execFlush, hi, Cause.status]

theorem exec_clear_of_not_inited {s : State} (hi : s.inited = false) :
    exec .clear s = .next ((s.withFb (fbZero s.h64)).complete .errNotInit) := by
  simp [exec, execClear, hi, Cause.status]

theorem exec_setpos_of_not_inited {s : State} (x y : BitVec 16) (hi : s.inited = false) :
    exec (.setpos x y) s = .next (s.complete .errNotInit) := by
  simp [exec, execSetpos, hi, Cause.status]

theorem exec_flushpage_of_not_inited {s : State} (ch : BitVec 8) (hi : s.inited = false) :
    exec (.flushpage ch) s = .next (s.complete .errNotInit) := by
  simp [exec, execFlushpage, hi, Cause.status]

theorem drawString_withInited (font : Font) (x y : Int) (n : Nat) (ptr : BitVec 32) (s : State) (b : Bool) :
    drawString font x y n ptr (s.withInited b) = (drawString font x y n ptr s).withInited b := by
  induction n with
  | zero => rfl
  | succ n ih =>
    unfold drawString at ih ⊢
    rw [forUp_succ, forUp_succ, ih]
    cases font <;> rfl

/-- A drawing operation neither reads nor writes `INITED` (R234). -/
theorem exec_drawing_withInited {i : Instr} (h : isDrawing i = true) (s : State) :
    ∃ t, exec i s = .next t ∧ ∀ b, exec i (s.withInited b) = .next (t.withInited b) := by
  have hstr : ∀ font x y n ptr b,
      (.next ((drawString font x y n ptr (s.withInited b)).complete .ok) : Host.Outcome State Fault Refusal) =
        .next (((drawString font x y n ptr s).complete .ok).withInited b) :=
    fun font x y n ptr b => by rw [drawString_withInited]; rfl
  cases i
  case drawstr8 => exact ⟨_, rfl, hstr .f8 _ _ _ _⟩
  case drawstr6 => exact ⟨_, rfl, hstr .f6 _ _ _ _⟩
  case drawstr5 => exact ⟨_, rfl, hstr .f5 _ _ _ _⟩
  all_goals first | exact ⟨_, rfl, fun _ => rfl⟩ | cases h

/-- Settles O34: the four guarded operations test `INITED` before anything but CLEAR's clear; INIT and drawing never
read it. -/
theorem busOperationsNeedInit : Obligations.BusOperationsNeedInit := by
  refine ⟨fun s i hi hop => ?guarded, fun s hi => ?clear, fun s i hop => ?others⟩
  case guarded =>
    rcases hop with ⟨x, y, rfl⟩ | ⟨ch, rfl⟩ | rfl
    · exact exec_setpos_of_not_inited x y hi
    · exact exec_flushpage_of_not_inited ch hi
    · exact exec_flush_of_not_inited hi
  case clear => exact ⟨_, exec_clear_of_not_inited hi, fun _ _ => fbByte_fbZero, rfl⟩
  case others =>
    rcases hop with rfl | hdraw
    · exact ⟨_, _, exec_init (s.withInited false), exec_init (s.withInited true), rfl,
        (State.transmit_trace (s.withInited false) ..).trans (State.transmit_trace (s.withInited true) ..).symm,
        by simp⟩
    · obtain ⟨t, -, ht⟩ := exec_drawing_withInited hdraw s
      exact ⟨_, _, ht false, ht true, rfl, rfl, rfl⟩

/-! ### SETPOS -/

/-- Off the display the `INITED` test alone decides the status (R131, R234). -/
theorem exec_setpos_of_off {s : State} {x y : BitVec 16}
    (h : signed x < 0 ∨ 128 ≤ signed x ∨ signed y < 0 ∨ (pages s.h64 : Int) ≤ signed y) :
    exec (.setpos x y) s = .next (s.complete (if s.inited then .ok else .errNotInit)) := by
  have hr : posInRange s.h64 (signed x) (signed y) = false := decide_eq_false (by simp only [Config.width]; omega)
  cases hi : s.inited with
  | false => exact exec_setpos_of_not_inited x y hi
  | true => simp [exec, execSetpos, hi, hr]

/-- Settles O31: off the display SETPOS only completes, and completing writes these four registers. -/
theorem setposOffTheDisplayIsANoop : Obligations.SetposOffTheDisplayIsANoop := fun _ _ _ h => exec_setpos_of_off h

/-! ### FLUSHPAGE, FLUSH and CLEAR -/

/-- Settles O32: the page's messages are sent as `afterSending` says, whose fields these are. -/
theorem flushpageSendsOnePage : Obligations.FlushpageSendsOnePage :=
  fun _ _ hi hp => ⟨_, exec_flushpage_of_lt hi hp, rfl, rfl, rfl⟩

/-- Settles O35: the pages' messages are sent as `afterSending` says, whose fields these are. -/
theorem flushTraceIsTheMessageList : Obligations.FlushTraceIsTheMessageList :=
  fun _ hi => ⟨_, exec_flush_of_inited hi, rfl, rfl, rfl⟩

/-- Settles O36: FLUSH's messages of the cleared framebuffer are sent, and sending keeps `FB`. -/
theorem clearZeroesAndSends : Obligations.ClearZeroesAndSends :=
  fun _ hi => ⟨_, exec_clear_of_inited hi, fun _ _ => fbByte_fbZero, rfl, rfl, rfl⟩

/-- Settles O17: FLUSH reads of the state CLRBUF leaves what CLEAR's own flush reads. -/
theorem clearIsClrbufThenFlush : Obligations.ClearIsClrbufThenFlush := by
  intro s
  cases hi : s.inited with
  | false => exact ⟨_, _, exec_clrbuf s, exec_flush_of_not_inited hi, exec_clear_of_not_inited hi⟩
  | true => exact ⟨_, _, exec_clrbuf s, exec_flush_of_inited hi, exec_clear_of_inited hi⟩

/-! ### Counting a FLUSH -/

/-- The messages of a FLUSH, counted: one per page on SSD1306, two on SH1106 (R106). -/
theorem flushMessages_length (chip : Chip) (h64 : Bool) (fb : Memory) :
    (flushMessages chip h64 fb).length =
      match chip with | .ssd1306 => pages h64 | .sh1106 => 2 * pages h64 := by
  cases chip <;> simp [flushMessages, pageMessages, Nat.mul_comm]

/-- The wire bytes of a FLUSH: each message's payload and one control byte (R101, R106). -/
theorem flushMessages_wireBytes (chip : Chip) (h64 : Bool) (fb : Memory) :
    ((flushMessages chip h64 fb).map fun m => (wireImage m.1 m.2).length).sum =
      match chip with | .ssd1306 => pages h64 * 129 | .sh1106 => pages h64 * 133 := by
  have hpage : ∀ p, ((pageMessages chip fb p).map fun m => (wireImage m.1 m.2).length).sum =
      match chip with | .ssd1306 => 129 | .sh1106 => 133 := by
    cases chip <;> simp [pageMessages, wireImage, posBytes]
  rw [flushMessages, List.map_flatMap, List.flatMap_def, List.sum_flatten, List.map_map]
  simp only [Function.comp_def, hpage]
  cases chip <;> simp

/-- Settles O37: with status `OK` no message failed, so the trace's new part is the whole list of messages. -/
theorem flushMessageAndWireByteCounts : Obligations.FlushMessageAndWireByteCounts := by
  intro s t hi h hok
  rw [exec_flush_of_inited hi] at h
  cases h
  have hsent : (s.afterSending (flushMessages s.chip s.h64 s.fb)).trace.drop s.trace.length =
      (flushMessages s.chip s.h64 s.fb).map fun m => { mode := m.1, payload := m.2, answer := .ok } :=
    List.drop_left.trans (sentEvents_of_ok _ _ (sentStatus_eq_ok_iff.mp hok))
  rw [hsent, List.length_map, List.map_map]
  exact ⟨flushMessages_length .., flushMessages_wireBytes ..⟩

/-! ### INIT_SEQ -/

/-- Settles O38: the laws of `initPayload`; the four default lists are computed. -/
theorem defaultInitSequences : Obligations.DefaultInitSequences :=
  ⟨initSeqOk_default, initPayload_legal, fun _ _ => initPayload_of_legal, fun _ => initPayload_of_none,
    by decide, by decide, by decide, by decide⟩

end Sys2Proof.Machine

/-! Proofs about the device mirror: the controller commands (R200 to R219), data bytes (R80 to R82), and what SETPOS and
INIT bring about in the device. -/

namespace Sys2Proof.Machine

/-! ### Commands -/

/-- Settles O39: each of these commands is its record update of the mirror. -/
theorem settingCommandsRecord : Obligations.SettingCommandsRecord :=
  fun _ _ _ _ => ⟨rfl, rfl, rfl, rfl, rfl, rfl, rfl, rfl, rfl, rfl, rfl, rfl⟩

/-- Settles O40: the ranges are record updates; a byte is told from a constant by its value. -/
theorem modeAndRangeCommands : Obligations.ModeAndRangeCommands := by
  intro s a lo hi
  refine ⟨?mode, rfl, rfl⟩
  case mode =>
    have h0 : a = 0x00#8 ↔ a.toNat = 0 := BitVec.toNat_inj.symm
    have h2 : a = 0x02#8 ↔ a.toNat = 2 := BitVec.toNat_inj.symm
    simp only [exec, execAddrmode, Dev.addrMode, State.withDev, h0, h2]

namespace Dev

variable {d : Dev} {chip : Chip}

theorem setPage_of_page (h : d.mode = .page) (p : BitVec 3) : d.setPage p = { d with pg := p.toNat } := by
  rw [setPage, h]

theorem setColLo_of_page (h : d.mode = .page) (n : BitVec 4) :
    d.setColLo chip n = { d with col := d.col / 16 * 16 + n.toNat } := by
  rw [setColLo, h]

theorem setColHi_of_page (h : d.mode = .page) (n : BitVec 4) :
    d.setColHi chip n = { d with col := n.toNat * 16 + d.col % 16 } := by
  rw [setColHi, h]

theorem setPage_of_ne_page (h : d.mode ≠ .page) (p : BitVec 3) : d.setPage p = d.losesPage := by
  unfold setPage
  split <;> first | rfl | contradiction

theorem setColLo_of_ne_page (h : d.mode ≠ .page) (n : BitVec 4) : d.setColLo chip n = d.losesCol chip := by
  unfold setColLo
  split <;> first | rfl | contradiction

theorem setColHi_of_ne_page (h : d.mode ≠ .page) (n : BitVec 4) : d.setColHi chip n = d.losesCol chip := by
  unfold setColHi
  split <;> first | rfl | contradiction

end Dev

/-- Settles O41: in page mode each position command writes its pointer field. -/
theorem positionCommandsInPageMode : Obligations.PositionCommandsInPageMode :=
  fun s p n h =>
    ⟨congrArg (fun d => Host.Outcome.next (s.withDev d)) (Dev.setPage_of_page h p),
      congrArg (fun d => Host.Outcome.next (s.withDev d)) (Dev.setColLo_of_page h n),
      congrArg (fun d => Host.Outcome.next (s.withDev d)) (Dev.setColHi_of_page h n)⟩

/-- Settles O42: in the other modes the pointer field takes a free value of the device's range. -/
theorem positionCommandsOutsidePageMode : Obligations.PositionCommandsOutsidePageMode := by
  intro s p n h
  refine ⟨⟨_, exec_command (.setpage p) s rfl, ?_⟩, ⟨_, exec_command (.setcollo n) s rfl, ?_⟩,
    ⟨_, exec_command (.setcolhi n) s rfl, ?_⟩⟩
  · rw [Dev.command, Dev.setPage_of_ne_page h]
    exact ⟨freePage_lt _, rfl⟩
  · rw [Dev.command, Dev.setColLo_of_ne_page h]
    exact ⟨freeCol_lt _ _, rfl⟩
  · rw [Dev.command, Dev.setColHi_of_ne_page h]
    exact ⟨freeCol_lt _ _, rfl⟩

/-! ### Position messages -/

/-- The three commands of a position payload, in page mode: page, low nibble, high nibble (R219). -/
theorem Dev.foldl_posCommands {chip : Chip} {d : Dev} {p dc : Nat} (hm : d.mode = .page) (hp : p < 8) (hdc : dc < 256) :
    (posCommands p dc).foldl (fun d i => d.command chip i) d = { d with pg := p, col := dc } := by
  have hcol : ∀ col, dc / 16 * 16 + (col / 16 * 16 + dc % 16) % 16 = dc := by omega
  simp only [posCommands, List.foldl_cons, List.foldl_nil, Dev.command, Dev.setPage_of_page hm]
  rw [Dev.setColLo_of_page (by exact hm), Dev.setColHi_of_page (by exact hm)]
  simp only [BitVec.toNat_ofNat, Nat.mod_eq_of_lt (show p < 2 ^ 3 from hp),
    Nat.mod_eq_of_lt (show dc % 16 < 2 ^ 4 by omega), Nat.mod_eq_of_lt (show dc / 16 < 2 ^ 4 by omega), hcol]

theorem Dev.clear_inbox_eq {d : Dev} (h : d.inbox = []) : { d with inbox := [] } = d := by
  cases d; cases h; rfl

/-- Whole commands taken with an empty inbox are applied one after the other (R80). -/
theorem Dev.takeCmd_of_parse {chip : Chip} {d : Dev} {payload : List Byte} {cs : List Instr} (hin : d.inbox = [])
    (h : parseCommands payload = (cs, [])) : d.takeCmd chip payload = cs.foldl (fun d i => d.command chip i) d := by
  have hout : (cs.foldl (fun d i => d.command chip i) d).inbox = [] :=
    foldl_command_keeps (fun e => e.inbox = []) cs d (fun i _ e he => (command_inbox chip i e).trans he) hin
  rw [takeCmd, hin, List.nil_append, h, clear_inbox_eq hin]
  exact clear_inbox_eq hout

/-- Settles O43: the payload is parsed into its three commands, which move the pointer. -/
theorem positionPayloadMovesThePointer : Obligations.PositionPayloadMovesThePointer :=
  fun _ _ _ _ hm hin hp hdc =>
    (Dev.takeCmd_of_parse hin (parseCommands_posPayload hp hdc)).trans (Dev.foldl_posCommands hm hp hdc)

/-! ### Data bytes -/

/-- Settles O45: the byte is stored, and the pointer advances by the mode's rule. -/
theorem dataByteAdvancesThePointer : Obligations.DataByteAdvancesThePointer := by
  intro chip d v hp hc
  refine ⟨fun hm => ?horizontal, fun hm hlt => Dev.dataByte_inPage v hm hp hlt, fun hm hlast => ?lastColumn,
    fun hm => ?other⟩
  case horizontal =>
    split
    next he => exact Dev.dataByte_inRow v hm hp hc he
    next he => exact Dev.dataByte_endRow v hm hp hc he
  case lastColumn =>
    refine ⟨freeCol chip d.drawn, freeCol_lt chip d.drawn, ?_⟩
    simp [Dev.dataByte, Dev.store, Dev.advance, Dev.losesCol, hp, hc, hm, hlast]
  case other =>
    refine ⟨freePage d.drawn, freeCol chip (d.drawn + 1), freePage_lt _, freeCol_lt _ _, ?_⟩
    simp [Dev.dataByte, Dev.store, Dev.advance, Dev.losesPointer, Dev.losesPage, Dev.losesCol, hp, hc, hm]

end Sys2Proof.Machine

/-! Proofs about what the block's one-message operations do to the device: SETPOS (R130) and INIT (R263, R266). -/

namespace Sys2Proof.Machine

/-! ### One message -/

theorem sentEvents_singleton (answer : Nat → Answer) (mode : BusMode) (payload : List Byte) :
    sentEvents answer [(mode, payload)] = [{ mode := mode, payload := payload, answer := answer 0 }] := by
  simp [sentEvents]

theorem sentStatus_one (answer : Nat → Answer) :
    sentStatus answer 1 = if answer 0 = .ok then .ok else .errTransport := by
  simp [sentStatus, leadingOk]

/-- One message takes one answer (R33). -/
theorem State.answerAt_afterSending_singleton (s : State) (mode : BusMode) (payload : List Byte) (k : Nat) :
    (s.afterSending [(mode, payload)]).answerAt k = s.answerAt (k + 1) := by
  refine (State.answerAt_congr (t := s.dropAnswer) ?_ ?_ k).trans (s.answerAt_dropAnswer k)
  · simp [State.afterSending, sentEvents_singleton]
  · cases h : s.answers <;> simp [State.afterSending, sentEvents_singleton, State.dropAnswer, h]

theorem State.afterSending_singleton_dev (s : State) (mode : BusMode) (payload : List Byte) :
    (s.afterSending [(mode, payload)]).dev =
      s.dev.deliver s.chip { mode := mode, payload := payload, answer := s.answerAt 0 } := by
  simp [State.afterSending, sentEvents_singleton]

/-! ### SETPOS -/

/-- SETPOS's page and device column are within the ranges of a position payload. -/
theorem setpos_ranges {s : State} {x y : BitVec 16} (hx : signed x < 128) (hy : signed y < pages s.h64) :
    (signed y).toNat < 8 ∧ (signed x).toNat + colOff s.chip < 256 := by
  have := pages_le s.h64
  have : colOff s.chip ≤ 2 := by cases s.chip <;> decide
  omega

/-- Settles O30: the one message is the position payload, which a device in page mode takes as its pointer. -/
theorem setposSendsThePosition : Obligations.SetposSendsThePosition := by
  intro s x y hi hx0 hx hy0 hy
  obtain ⟨hpage, hcol⟩ := setpos_ranges hx hy
  refine ⟨_, exec_setpos_of_inRange hi ⟨hx0, hx, hy0, hy⟩, ?trace, sentStatus_one _,
    s.answerAt_afterSending_singleton _ _, fun hm hin hok => ?device, rfl⟩
  case trace =>
    rw [State.afterSending, sentEvents_singleton, positionPayloadBytes _ _ hpage hcol]
  case device =>
    rw [s.afterSending_singleton_dev, hok]
    exact positionPayloadMovesThePointer s.chip s.dev _ _ hm hin hpage hcol

/-! ### INIT -/

theorem exec_init_dev (s : State) : ∃ t, exec .init s = .next t ∧ t.status = statusOfAnswer (s.answerAt 0) ∧
    t.dev = s.dev.deliver s.chip { mode := .cmd, payload := initPayload s, answer := s.answerAt 0 } :=
  ⟨_, exec_init s, rfl, s.transmit_dev .cmd (initPayload s)⟩

theorem lastPageArg_toNat (h64 : Bool) : (lastPageArg h64).toNat + 1 = pages h64 := by cases h64 <;> decide

namespace Dev

section InitCommands

variable {chip : Chip} {h64 : Bool} {i : Instr}

/-- In an initialisation sequence only `ADDRMODE` writes the mode, and with the variant's argument (R126). -/
theorem mode_of_initCommandOk (h : initCommandOk chip h64 i = true) (d : Dev) (hd : d.mode = addrModeOf chip) :
    (d.command chip i).mode = addrModeOf chip := by
  cases i
  case addrmode a =>
    have ha : a = modeArg chip := by simpa [initCommandOk] using h
    subst ha
    cases chip <;> rfl
  all_goals first | exact hd | (simp [initCommandOk] at h)

/-- Only `MUXRATIO` writes the multiplex ratio, and with `HEIGHT` − 1 (R126). -/
theorem drivenRows_of_initCommandOk (h : initCommandOk chip h64 i = true) (d : Dev)
    (hd : d.drivenRows h64 = height h64) : (d.command chip i).drivenRows h64 = height h64 := by
  cases i
  case muxratio a =>
    have ha : a = muxArg h64 := by simpa [initCommandOk] using h
    subst ha
    exact drivenRows_muxratio chip h64 d
  all_goals first | exact hd | (simp [initCommandOk] at h)

/-- Only `COLRANGE` moves the column and its range, and over the full range (R126). -/
theorem cols_of_initCommandOk (h : initCommandOk chip h64 i = true) (d : Dev)
    (hd : d.col = 0 ∧ d.colStart = 0 ∧ d.colEnd = 127) :
    (d.command chip i).col = 0 ∧ (d.command chip i).colStart = 0 ∧ (d.command chip i).colEnd = 127 := by
  cases i
  case colrange lo hi =>
    obtain ⟨rfl, rfl⟩ : lo = 0x00 ∧ hi = 0x7F := by simpa [initCommandOk] using h
    exact ⟨rfl, rfl, rfl⟩
  all_goals first | exact hd | (simp [initCommandOk] at h)

/-- Only `PAGERANGE` moves the page and its range, and over the full range (R126). -/
theorem pages_of_initCommandOk (h : initCommandOk chip h64 i = true) (d : Dev)
    (hd : d.pg = 0 ∧ d.pgStart = 0 ∧ d.pgEnd + 1 = pages h64) :
    (d.command chip i).pg = 0 ∧ (d.command chip i).pgStart = 0 ∧ (d.command chip i).pgEnd + 1 = pages h64 := by
  cases i
  case pagerange lo hi =>
    obtain ⟨rfl, rfl⟩ : lo = 0x00 ∧ hi = lastPageArg h64 := by simpa [initCommandOk] using h
    exact ⟨rfl, rfl, lastPageArg_toNat h64⟩
  all_goals first | exact hd | (simp [initCommandOk] at h)

end InitCommands

end Dev

theorem initEveryVariant_mem {chip : Chip} {h64 : Bool} {cs : List Instr} (h : initEveryVariant chip h64 cs = true) :
    .muxratio (muxArg h64) ∈ cs ∧ .addrmode (modeArg chip) ∈ cs := by
  simp only [initEveryVariant, Bool.and_eq_true, List.contains_iff_mem, beq_iff_eq] at h
  obtain ⟨⟨⟨⟨⟨hmux, -⟩, hmode⟩, -⟩, -⟩, -⟩ := h
  exact ⟨hmux, List.count_pos_iff.mp (by omega)⟩

/-- What the commands of a legal sequence leave in the device, whatever they found there (R123 to R126, R263). -/
theorem Dev.foldl_initCommands {chip : Chip} {h64 : Bool} {cs : List Instr} (h : initCommandsOk chip h64 cs = true)
    (d : Dev) :
    let e := cs.foldl (fun d i => d.command chip i) d
    e.on = true ∧ e.ram = d.ram ∧ e.drivenRows h64 = height h64 ∧ e.mode = addrModeOf chip ∧
      (chip = .ssd1306 → (e.col = 0 ∧ e.colStart = 0 ∧ e.colEnd = 127) ∧
        e.pg = 0 ∧ e.pgStart = 0 ∧ e.pgEnd + 1 = pages h64) := by
  obtain ⟨hall, hevery, hlast, hranges⟩ := initCommandsOk_parts h
  obtain ⟨hmux, hmode⟩ := initEveryVariant_mem hevery
  refine ⟨?on, ?ram, ?rows, ?mode, fun hchip => ⟨?cols, ?pages⟩⟩
  case on =>
    obtain ⟨ys, rfl⟩ := List.getLast?_eq_some_iff.mp hlast
    rw [List.foldl_append]
    rfl
  case ram =>
    exact foldl_command_keeps (fun e => e.ram = d.ram) cs d (fun i _ e he => (command_ram chip i e).trans he) rfl
  case rows =>
    exact foldl_command_establishes (fun e => e.drivenRows h64 = height h64) cs d _ hmux (drivenRows_muxratio chip h64)
      fun i hi => drivenRows_of_initCommandOk (hall i hi)
  case mode =>
    exact foldl_command_establishes (fun e => e.mode = addrModeOf chip) cs d _ hmode (fun e => by cases chip <;> rfl)
      fun i hi => mode_of_initCommandOk (hall i hi)
  case cols =>
    exact foldl_command_establishes (fun e => e.col = 0 ∧ e.colStart = 0 ∧ e.colEnd = 127) cs d _ (hranges hchip).1
      (fun _ => ⟨rfl, rfl, rfl⟩) fun i hi => cols_of_initCommandOk (hall i hi)
  case pages =>
    exact foldl_command_establishes (fun e => e.pg = 0 ∧ e.pgStart = 0 ∧ e.pgEnd + 1 = pages h64) cs d _
      (hranges hchip).2 (fun _ => ⟨rfl, rfl, lastPageArg_toNat h64⟩) fun i hi => pages_of_initCommandOk (hall i hi)

/-- Settles O47: an empty inbox parses the payload into a legal sequence, whose commands leave the device so. -/
theorem initLeavesTheDeviceReady : Obligations.InitLeavesTheDeviceReady := by
  intro s hin hok
  obtain ⟨t, ht, -, hdev⟩ := exec_init_dev s
  obtain ⟨hrest, hlegal⟩ := parseCommands_initPayload s
  obtain ⟨hon, hram, hrows, hmode, hranges⟩ := Dev.foldl_initCommands hlegal s.dev
  have htaken : t.dev = (parseCommands (initPayload s)).1.foldl (fun d i => d.command s.chip i) s.dev := by
    rw [hdev, hok]
    exact Dev.takeCmd_of_parse hin (Prod.ext rfl hrest)
  refine ⟨t, ht, htaken ▸ hon, exec_request_inbox rfl hin ht, htaken ▸ hram, htaken ▸ hrows, fun hchip => ?ready,
    fun hchip => ?pageMode⟩
  case ready =>
    obtain ⟨⟨hcol, hfrom, hto⟩, hpg, hpfrom, hpto⟩ := hranges hchip
    exact htaken ▸ ⟨hmode.trans (congrArg addrModeOf hchip), hpg, hcol, hfrom, hto, hpfrom, hpto⟩
  case pageMode => exact htaken ▸ hmode.trans (congrArg addrModeOf hchip)

end Sys2Proof.Machine

/-! Proofs about the device's memory: what a FLUSH shows (R85, R266) and what a failed message loses (R84). -/

namespace Sys2Proof.Machine

theorem pageData_getD (fb : Memory) (p : Nat) {c : Nat} (hc : c < 128) : (pageData fb p).getD c 0 = fbByte fb p c := by
  simp [pageData, Config.width, hc]

/-! ### Messages that all reach the device -/

/-- The device after messages all answered `ok` (R80). -/
def Dev.takeMessages (chip : Chip) (ms : List (BusMode × List Byte)) (d : Dev) : Dev :=
  ms.foldl (fun d m => d.deliver chip { mode := m.1, payload := m.2, answer := .ok }) d

theorem State.afterSending_dev_of_ok {s : State} {ms : List (BusMode × List Byte)}
    (h : sentStatus s.answerAt ms.length = .ok) : (s.afterSending ms).dev = s.dev.takeMessages s.chip ms := by
  simp only [State.afterSending, sentEvents_of_ok _ _ (sentStatus_eq_ok_iff.mp h), List.foldl_map, Dev.takeMessages]

/-- A FLUSH that ends with `OK` gave the device the messages of every page. -/
theorem exec_flush_ok {s t : State} (hi : s.inited = true) (h : exec .flush s = .next t) (hok : t.status = .ok) :
    t.dev = s.dev.takeMessages s.chip (flushMessages s.chip s.h64 s.fb) ∧ t.fb = s.fb ∧ t.h64 = s.h64 ∧
      t.chip = s.chip := by
  rw [exec_flush_of_inited hi] at h
  cases h
  exact ⟨State.afterSending_dev_of_ok hok, rfl, rfl, rfl⟩

/-- The messages of the first `n + 1` pages are those of the first `n` and then page `n`'s. -/
theorem Dev.takeMessages_succ (chip : Chip) (fb : Memory) (n : Nat) (d : Dev) :
    d.takeMessages chip ((List.range (n + 1)).flatMap (pageMessages chip fb)) =
      (d.takeMessages chip ((List.range n).flatMap (pageMessages chip fb))).takeMessages chip
        (pageMessages chip fb n) := by
  rw [Dev.takeMessages, List.range_succ, List.flatMap_append, List.flatMap_singleton, List.foldl_append]
  rfl

/-! ### SH1106 (R85 (a)) -/

/-- A device that the split flush leaves as it needs it. -/
def Dev.PageReady (d : Dev) : Prop := d.mode = .page ∧ d.inbox = []

/-- Such a device takes a position message as its pointer (R219). -/
theorem Dev.deliver_posBytes {chip : Chip} {d : Dev} (h : d.PageReady) {p dc : Nat} (hp : p < 8) (hdc : dc < 256) :
    d.deliver chip { mode := .cmd, payload := posBytes p dc, answer := .ok } = { d with pg := p, col := dc } :=
  positionPayloadBytes p dc hp hdc ▸ positionPayloadMovesThePointer chip d p dc h.1 h.2 hp hdc

/-- One page of the split flush: the pointer moves to the page's device column 2, and 128 bytes are stored (R137). -/
theorem Dev.takeMessages_page_sh1106 {d : Dev} (h : d.PageReady) (fb : Memory) {p : Nat} (hp : p < 8) :
    d.takeMessages .sh1106 (pageMessages .sh1106 fb p) =
      { d with ram := writeRun p 2 (pageData fb p) d.ram, pg := p, col := 130 } := by
  simp only [takeMessages, pageMessages, List.foldl_cons, List.foldl_nil,
    deliver_posBytes h hp (show 2 < 256 by decide)]
  have hlen := pageData_length fb p
  generalize pageData fb p = bs at hlen ⊢
  have hdata := takeData_page (chip := .sh1106) (d := { d with pg := p, col := 2 }) bs h.1 hp (by simp [hlen, devCols])
  rw [hlen] at hdata
  exact hdata

/-- After `n` pages the device columns 2 to 129 of those pages hold them, and nothing else has changed. -/
theorem Dev.takeMessages_pages_sh1106 {d : Dev} (h : d.PageReady) (fb : Memory) {n : Nat} (hn : n ≤ 8) :
    (d.takeMessages .sh1106 ((List.range n).flatMap (pageMessages .sh1106 fb))).PageReady ∧
    ∀ p c, c < 256 →
      devByte (d.takeMessages .sh1106 ((List.range n).flatMap (pageMessages .sh1106 fb))).ram p c =
        if p < n ∧ 2 ≤ c ∧ c < 130 then fbByte fb p (c - 2) else devByte d.ram p c := by
  induction n with
  | zero => exact ⟨h, fun p c _ => (if_neg (by omega)).symm⟩
  | succ n ih =>
    obtain ⟨hready, hram⟩ := ih (by omega)
    rw [takeMessages_succ, takeMessages_page_sh1106 hready fb (by omega)]
    refine ⟨⟨hready.1, hready.2⟩, fun p c hc => ?_⟩
    dsimp only
    rw [devByte_writeRun n 2 _ _ (by simp) hc, pageData_length, hram p c hc]
    by_cases hpn : p = n ∧ 2 ≤ c ∧ c < 130
    · obtain ⟨rfl, hlo, hhi⟩ := hpn
      rw [if_pos ⟨rfl, hlo, hhi⟩, if_pos ⟨Nat.lt_succ_self p, hlo, hhi⟩, pageData_getD fb p (by omega)]
    · rw [if_neg hpn]
      exact if_congr (by omega) rfl rfl

/-- Settles O48: the position messages put every page where it belongs, and only columns 2 to 129 are written. -/
theorem flushShowsFramebufferOnSh1106 : Obligations.FlushShowsFramebufferOnSh1106 := by
  intro s t hchip hi hm hin h hok
  obtain ⟨hdev, hfb, hh64, htchip⟩ := exec_flush_ok hi h hok
  rw [hchip] at hdev htchip
  obtain ⟨hready, hram⟩ := Dev.takeMessages_pages_sh1106 (d := s.dev) ⟨hm, hin⟩ s.fb (pages_le s.h64)
  rw [flushMessages] at hdev
  rw [← hdev] at hready hram
  refine ⟨fun p c hp hc => ?shown, fun p c hc => ?kept, hready.1, hready.2⟩
  case shown =>
    rw [hh64] at hp
    have hc' : c < 128 := hc
    rw [hfb, htchip, show colOff .sh1106 = 2 from rfl, hram p (c + 2) (by omega),
      if_pos ⟨hp, by omega, by omega⟩, Nat.add_sub_cancel]
  case kept => rw [hram p c (by omega), if_neg (by omega)]

/-! ### SSD1306 (R85 (b), R266) -/

theorem pages_cases (h64 : Bool) : pages h64 = 4 ∨ pages h64 = 8 := by cases h64 <;> decide

/-- A device in which whole pages follow each other: `Dev.Ready` with the pointer at the start of any page. -/
structure Dev.AtPage (h64 : Bool) (k : Nat) (d : Dev) : Prop where
  mode_horizontal : d.mode = .horizontal
  at_page : d.pg = k
  page_lt : k < pages h64
  at_col_zero : d.col = 0
  cols_from : d.colStart = 0
  cols_to : d.colEnd = 127
  pages_from : d.pgStart = 0
  pages_to : d.pgEnd + 1 = pages h64

theorem Dev.ready_iff_atPage_zero {h64 : Bool} {d : Dev} : d.Ready h64 ↔ d.AtPage h64 0 := by
  have hpages : 0 < pages h64 := by cases h64 <;> decide
  exact ⟨fun ⟨hm, hpg, hcol, hfrom, hto, hpfrom, hpto⟩ => ⟨hm, hpg, hpages, hcol, hfrom, hto, hpfrom, hpto⟩,
    fun ⟨hm, hpg, _, hcol, hfrom, hto, hpfrom, hpto⟩ => ⟨hm, hpg, hcol, hfrom, hto, hpfrom, hpto⟩⟩

/-- One page of the single flush lands on the device page of the pointer, which moves to the next page, or from the last
one to the first (R81, R135). -/
theorem Dev.takeMessages_page_ssd1306 {h64 : Bool} {k : Nat} {d : Dev} (h : d.AtPage h64 k) (fb : Memory) (p : Nat) :
    d.takeMessages .ssd1306 (pageMessages .ssd1306 fb p) =
      { d with ram := writeRun k 0 (pageData fb p) d.ram, pg := (k + 1) % pages h64 } := by
  obtain ⟨hm, hpg, hlt, hcol, hfrom, hto, hpfrom, hpto⟩ := h
  simp only [takeMessages, pageMessages, List.foldl_cons, List.foldl_nil]
  have hlen := pageData_length fb p
  generalize pageData fb p = bs at hlen ⊢
  have hne : bs ≠ [] := List.ne_nil_of_length_pos (by omega)
  have hrow := takeData_row (chip := .ssd1306) (d := d) bs.dropLast (bs.getLast hne) hm
    (by have := pages_le h64; omega) (by rw [hto]; decide) (by simp [hcol, hto, hlen])
  rw [List.dropLast_append_getLast] at hrow
  have hnext : (if d.pg < d.pgEnd then d.pg + 1 else d.pgStart) = (k + 1) % pages h64 := by
    split
    · rw [Nat.mod_eq_of_lt (by omega)]; omega
    · rw [show k + 1 = pages h64 by omega, Nat.mod_self, hpfrom]
  refine hrow.trans ?_
  rw [hnext, hpg, hcol, hfrom, ← hcol]

theorem Dev.AtPage.next {h64 : Bool} {k : Nat} {d : Dev} (h : d.AtPage h64 k) (fb : Memory) (p : Nat) :
    (d.takeMessages .ssd1306 (pageMessages .ssd1306 fb p)).AtPage h64 ((k + 1) % pages h64) := by
  rw [takeMessages_page_ssd1306 h]
  exact { h with at_page := rfl, page_lt := Nat.mod_lt _ (by have := h.page_lt; omega) }

/-- After `n` pages the device pages from `k` on, wrapping at the last, hold them. -/
theorem Dev.takeMessages_pages_ssd1306 {h64 : Bool} {k : Nat} {d : Dev} (h : d.AtPage h64 k) (fb : Memory) {n : Nat}
    (hn : n ≤ pages h64) :
    (d.takeMessages .ssd1306 ((List.range n).flatMap (pageMessages .ssd1306 fb))).AtPage h64 ((k + n) % pages h64) ∧
    ∀ p c, p < n → c < 128 →
      devByte (d.takeMessages .ssd1306 ((List.range n).flatMap (pageMessages .ssd1306 fb))).ram
        ((k + p) % pages h64) c = fbByte fb p c := by
  induction n with
  | zero =>
    rw [Nat.add_zero, Nat.mod_eq_of_lt h.page_lt]
    exact ⟨h, fun p c hp => absurd hp (Nat.not_lt_zero p)⟩
  | succ n ih =>
    obtain ⟨hat, hram⟩ := ih (by omega)
    rw [takeMessages_succ]
    refine ⟨?_, fun p c hp hc => ?_⟩
    · have := hat.next fb n
      rwa [Nat.mod_add_mod, Nat.add_assoc] at this
    · rw [takeMessages_page_ssd1306 hat]
      dsimp only
      rw [devByte_writeRun _ 0 _ _ (by simp) (by omega), pageData_length, Nat.sub_zero]
      rcases Nat.lt_succ_iff_lt_or_eq.mp hp with hlt | rfl
      · have hdiff : (k + p) % pages h64 ≠ (k + n) % pages h64 := by
          rcases pages_cases h64 with hP | hP <;> rw [hP] at hn ⊢ <;> omega
        rw [if_neg fun e => hdiff e.1]
        exact hram p c hlt hc
      · rw [if_pos ⟨rfl, by omega, by omega⟩, pageData_getD fb p hc]

/-- Settles O49: a whole round of pages from page 0 puts each page on its own device page and returns to page 0. -/
theorem flushShowsFramebufferOnSsd1306 : Obligations.FlushShowsFramebufferOnSsd1306 := by
  intro s t hchip hi hready h hok
  obtain ⟨hdev, hfb, hh64, htchip⟩ := exec_flush_ok hi h hok
  rw [hchip] at hdev htchip
  obtain ⟨hat, hram⟩ := Dev.takeMessages_pages_ssd1306 (Dev.ready_iff_atPage_zero.mp hready) s.fb le_rfl
  rw [flushMessages] at hdev
  rw [← hdev, Nat.zero_add, Nat.mod_self] at hat
  rw [← hdev] at hram
  refine ⟨fun p c hp hc => ?shown, Dev.ready_iff_atPage_zero.mpr hat⟩
  case shown =>
    rw [hh64] at hp
    have hpage := hram p c hp hc
    rw [Nat.zero_add, Nat.mod_eq_of_lt hp] at hpage
    rw [hfb, htchip]
    exact hpage

/-- Settles O50: from page 0 the lone page lands on device page 0 and leaves the pointer at page 1, from where a round
of pages lands one page further and returns. -/
theorem flushpageAloneLandsOnPageZeroOfSsd1306 : Obligations.FlushpageAloneLandsOnPageZeroOfSsd1306 := by
  intro s ch hchip hi hready hp hanswer
  have hat := Dev.ready_iff_atPage_zero.mp hready
  have hok : sentStatus s.answerAt (pageMessages s.chip s.fb ch.toNat).length = .ok := by
    rw [hchip]; exact (sentStatus_one _).trans (if_pos hanswer)
  have hdev : (s.afterSending (pageMessages s.chip s.fb ch.toNat)).dev =
      s.dev.takeMessages .ssd1306 (pageMessages .ssd1306 s.fb ch.toNat) := by
    rw [State.afterSending_dev_of_ok hok, hchip]
  have hone : (0 + 1) % pages s.h64 = 1 := Nat.mod_eq_of_lt (by rcases pages_cases s.h64 with h | h <;> omega)
  have hnext := hat.next s.fb ch.toNat
  rw [← hdev, hone] at hnext
  refine ⟨_, exec_flushpage_of_lt hi hp, hok, fun c hc => ?landed, hnext.at_page, hnext.at_col_zero, ?notReady,
    fun u hu huok => ?rotated⟩
  case landed =>
    rw [hdev, Dev.takeMessages_page_ssd1306 hat]
    dsimp only
    rw [Dev.devByte_writeRun 0 0 _ _ (by simp) (by omega), pageData_length, if_pos ⟨rfl, by omega, by omega⟩,
      Nat.sub_zero, pageData_getD _ _ hc]
  case notReady =>
    intro hagain
    have hzero := hagain.at_page_zero
    rw [hnext.at_page] at hzero
    cases hzero
  case rotated =>
    obtain ⟨hudev, -, -, -⟩ := exec_flush_ok (s := s.afterSending (pageMessages s.chip s.fb ch.toNat)) hi hu huok
    obtain ⟨hend, hram⟩ := Dev.takeMessages_pages_ssd1306 hnext s.fb le_rfl
    have hu' : u.dev = (s.afterSending (pageMessages s.chip s.fb ch.toNat)).dev.takeMessages .ssd1306
        ((List.range (pages s.h64)).flatMap (pageMessages .ssd1306 s.fb)) := by rw [hudev, ← hchip]; rfl
    rw [← hu'] at hend hram
    rw [Nat.add_mod_right, Nat.mod_eq_of_lt hnext.page_lt] at hend
    exact ⟨fun p c hp hc => Nat.add_comm 1 p ▸ hram p c hp hc, hend.at_page, hend.at_col_zero⟩

/-! ### Failed messages (R84) -/

/-- A failed position message loses the pointer and nothing else. -/
theorem Dev.loseCmd_posPayload (chip : Chip) (d : Dev) {p dc : Nat} (hp : p < 8) (hdc : dc < 256) :
    ∃ pg col n, pg < 8 ∧ col < devCols chip ∧
      d.loseCmd chip (posPayload p dc) = { d with pg := pg, col := col, drawn := n } := by
  refine ⟨freePage d.drawn, freeCol chip (d.drawn + 2), d.drawn + 3, freePage_lt _, freeCol_lt _ _, ?_⟩
  rw [loseCmd, parseCommands_posPayload hp hdc]
  rfl

/-- A device is its memory and its inbox and the rest. -/
theorem Dev.eq_of_ram_inbox {d e : Dev} (hram : e.ram = d.ram) (hin : e.inbox = d.inbox) :
    e = { d with
      pg := e.pg, col := e.col, mode := e.mode, colStart := e.colStart, colEnd := e.colEnd, pgStart := e.pgStart,
      pgEnd := e.pgEnd, on := e.on, set := e.set, drawn := e.drawn } := by
  rw [← hram, ← hin]

/-- A failed init message loses neither memory nor inbox. -/
theorem Dev.loseCmd_ram_inbox (chip : Chip) (payload : List Byte) (d : Dev) :
    (d.loseCmd chip payload).ram = d.ram ∧ (d.loseCmd chip payload).inbox = d.inbox :=
  foldl_loseCommand_keeps (fun e => e.ram = d.ram ∧ e.inbox = d.inbox) _ d
    (fun i _ e he => ⟨(loseCommand_ram chip i e).trans he.1, (loseCommand_inbox chip i e).trans he.2⟩) ⟨rfl, rfl⟩

/-- The settings SSD1306's sequences never write are the same (R124). -/
def DevSettings.SameSh1106Only (t u : DevSettings) : Prop :=
  t.dispOffset = u.dispOffset ∧ t.startLine = u.startLine ∧ t.contrast = u.contrast ∧ t.clockDiv = u.clockDiv ∧
    t.vcomh = u.vcomh

theorem DevSettings.SameSh1106Only.eq {t u : DevSettings} (h : t.SameSh1106Only u) :
    t = { u with
      muxRatio := t.muxRatio, chargePump := t.chargePump, comPins := t.comPins, segRemap := t.segRemap,
      comScan := t.comScan } := by
  obtain ⟨hoffset, hline, hcontrast, hclock, hvcomh⟩ := h
  rw [← hoffset, ← hline, ← hcontrast, ← hclock, ← hvcomh]

theorem Dev.loseCommand_set_of_initCommandOk {h64 : Bool} {i : Instr} (h : initCommandOk .ssd1306 h64 i = true)
    {d : Dev} {u : DevSettings} (hd : d.set.SameSh1106Only u) : (d.loseCommand .ssd1306 i).set.SameSh1106Only u := by
  cases i <;> first | exact hd | (simp [initCommandOk] at h)

/-- Memory, pointer, ranges and inbox are the same. -/
def Dev.SamePointer (e d : Dev) : Prop :=
  e.ram = d.ram ∧ e.pg = d.pg ∧ e.col = d.col ∧ e.colStart = d.colStart ∧ e.colEnd = d.colEnd ∧
    e.pgStart = d.pgStart ∧ e.pgEnd = d.pgEnd ∧ e.inbox = d.inbox

theorem Dev.SamePointer.eq {e d : Dev} (h : e.SamePointer d) :
    e = { d with mode := e.mode, on := e.on, set := e.set, drawn := e.drawn } := by
  obtain ⟨hram, hpg, hcol, hfrom, hto, hpfrom, hpto, hin⟩ := h
  rw [← hram, ← hpg, ← hcol, ← hfrom, ← hto, ← hpfrom, ← hpto, ← hin]

/-- SH1106's default sequence holds no command that writes pointer or ranges. -/
theorem Dev.loseCommand_samePointer {h64 : Bool} {i : Instr} (h : i ∈ defaultInitSeq .sh1106 h64) {d e : Dev}
    (he : e.SamePointer d) : (e.loseCommand .sh1106 i).SamePointer d := by
  simp only [defaultInitSeq, List.mem_cons, List.not_mem_nil, or_false] at h
  rcases h with rfl | rfl | rfl | rfl | rfl | rfl | rfl | rfl | rfl | rfl | rfl | rfl | rfl <;> exact he

/-- What a device that lost a run of bytes and its pointer has kept. -/
theorem Dev.kept_of_lost_run {chip : Chip} {d e : Dev} {q lo : Nat} {bs : List Byte} (hend : lo + bs.length ≤ 256)
    (h : ∃ pg col n, pg < 8 ∧ col < devCols chip ∧
      e = { d with ram := writeRun q lo bs d.ram, pg := pg, col := col, drawn := n }) :
    e.pg < 8 ∧ e.col < devCols chip ∧
      (∀ p c, c < 256 → ¬ (p = q ∧ lo ≤ c ∧ c < lo + bs.length) → devByte e.ram p c = devByte d.ram p c) ∧
      e = { d with ram := e.ram, pg := e.pg, col := e.col, drawn := e.drawn } := by
  obtain ⟨pg, col, n, hpg, hcol, rfl⟩ := h
  exact ⟨hpg, hcol, fun p c hc hout => (devByte_writeRun q lo bs d.ram hend hc).trans (if_neg hout), rfl⟩

/-- After one `ok` a second message is sent, and its failure is the operation's (R139). -/
theorem State.afterSending_ok_fail {s : State} {m₁ m₂ : BusMode × List Byte} (hok : s.answerAt 0 = .ok)
    (hfail : s.answerAt 1 = .fail) :
    (s.afterSending [m₁, m₂]).status = .errTransport ∧
    (s.afterSending [m₁, m₂]).dev =
      (s.dev.deliver s.chip { mode := m₁.1, payload := m₁.2, answer := .ok }).deliver s.chip
        { mode := m₂.1, payload := m₂.2, answer := .fail } := by
  have hone : leadingOk s.answerAt 2 = 1 := by simp [leadingOk, hok, hfail]
  have hevents : sentEvents s.answerAt [m₁, m₂] =
      [{ mode := m₁.1, payload := m₁.2, answer := .ok }, { mode := m₂.1, payload := m₂.2, answer := .fail }] := by
    simp [sentEvents, hone, List.range_succ, hok, hfail]
  simp [State.afterSending, sentStatus, hone, hevents]

/-- Settles O46: what each failed message's commands or bytes write is lost, and the rest of the device is kept. -/
theorem failedMessageLosesOnlyWhatItCouldWrite : Obligations.FailedMessageLosesOnlyWhatItCouldWrite := by
  refine ⟨?setpos, ?init, ?ssd1306Page, ?sh1106Page⟩
  case setpos =>
    intro s x y hi hx0 hx hy0 hy hfail
    obtain ⟨hpage, hcol⟩ := setpos_ranges hx hy
    obtain ⟨pg, col, n, hpg, hcol', hlost⟩ := Dev.loseCmd_posPayload s.chip s.dev hpage hcol
    have hdev := s.afterSending_singleton_dev .cmd (posPayload (signed y).toNat ((signed x).toNat + colOff s.chip))
    rw [hfail] at hdev
    replace hdev := hdev.trans hlost
    refine ⟨_, exec_setpos_of_inRange hi ⟨hx0, hx, hy0, hy⟩, (sentStatus_one _).trans (if_neg (by simp [hfail])), ?_⟩
    rw [hdev]
    exact ⟨hpg, hcol', rfl⟩
  case init =>
    intro s hfail
    obtain ⟨t, ht, hstatus, hdev⟩ := exec_init_dev s
    rw [hfail] at hstatus hdev
    replace hdev : t.dev = s.dev.loseCmd s.chip (initPayload s) := hdev
    obtain ⟨hram, hin⟩ := Dev.loseCmd_ram_inbox s.chip (initPayload s) s.dev
    refine ⟨t, ht, hstatus, Dev.eq_of_ram_inbox (hdev ▸ hram) (hdev ▸ hin), fun hchip => ?settings,
      fun hchip hnone => ?default⟩
    case settings =>
      have hlegal := (initCommandsOk_parts (parseCommands_initPayload s).2).1
      rw [hdev, Dev.loseCmd]
      rw [hchip] at hlegal ⊢
      exact (Dev.foldl_loseCommand_keeps (fun e => e.set.SameSh1106Only s.dev.set) _ s.dev
        (fun i hi e he => Dev.loseCommand_set_of_initCommandOk (hlegal i hi) he) ⟨rfl, rfl, rfl, rfl, rfl⟩).eq
    case default =>
      rw [hdev, Dev.loseCmd, initPayload_of_none hnone, parseCommands_default, hchip]
      exact (Dev.foldl_loseCommand_keeps (fun e => e.SamePointer s.dev) _ s.dev
        (fun i hi e he => Dev.loseCommand_samePointer hi he) ⟨rfl, rfl, rfl, rfl, rfl, rfl, rfl, rfl⟩).eq
  case ssd1306Page =>
    intro s ch hchip hi hready hp hfail
    have hmsgs : pageMessages s.chip s.fb ch.toNat = [(.data, pageData s.fb ch.toNat)] := by rw [hchip]; rfl
    have hexec := exec_flushpage_of_lt hi hp
    rw [hmsgs] at hexec
    have hdev := s.afterSending_singleton_dev .data (pageData s.fb ch.toNat)
    rw [hfail] at hdev
    have hlost := Dev.loseData_row (chip := s.chip) (d := s.dev) (pageData s.fb ch.toNat) hready.mode_horizontal
      (by rw [hready.at_page_zero]; decide) (by rw [hready.cols_to, hchip]; decide)
      (by rw [hready.at_col_zero, hready.cols_to, pageData_length]) (by rw [pageData_length]; decide)
    rw [hready.at_page_zero, hready.at_col_zero] at hlost
    obtain ⟨hpg, hcol, hram, heq⟩ := Dev.kept_of_lost_run (by simp) hlost
    refine ⟨_, hexec, (sentStatus_one _).trans (if_neg (by simp [hfail])), ?_⟩
    rw [hdev]
    refine ⟨hpg, hcol, fun p c hc hout => hram p c hc fun hin => hout ⟨hin.1, ?_⟩, heq⟩
    simpa using hin.2.2
  case sh1106Page =>
    intro s ch hchip hi hm hin hp hok hfail
    have hp8 : ch.toNat < 8 := hp.trans_le (pages_le _)
    have hmsgs : pageMessages s.chip s.fb ch.toNat =
        [(.cmd, posBytes ch.toNat 2), (.data, pageData s.fb ch.toNat)] := by rw [hchip]; rfl
    have hexec := exec_flushpage_of_lt hi hp
    rw [hmsgs] at hexec
    obtain ⟨hstatus, hdev⟩ := State.afterSending_ok_fail (m₁ := (.cmd, posBytes ch.toNat 2))
      (m₂ := (.data, pageData s.fb ch.toNat)) hok hfail
    rw [Dev.deliver_posBytes ⟨hm, hin⟩ hp8 (by decide)] at hdev
    have hlost := Dev.loseData_page (chip := s.chip) (d := { s.dev with pg := ch.toNat, col := 2 })
      (pageData s.fb ch.toNat) hm hp8 (by simp [hchip, devCols])
    obtain ⟨hpg, hcol, hram, heq⟩ := Dev.kept_of_lost_run (by simp) hlost
    refine ⟨_, hexec, hstatus, ?_⟩
    rw [hdev]
    refine ⟨hpg, hcol, fun p c hc hout => hram p c hc fun hin => hout ⟨hin.1, hin.2.1, ?_⟩, heq⟩
    simpa using hin.2.2

end Sys2Proof.Machine

/-! Proofs about the variants (R9) and the text form of requests (R98, R99). -/

namespace Sys2Proof.Machine

/-- Settles O59: the height and the table of R9 leave one record for each chip and height. -/
theorem fourLegalVariants : Obligations.FourLegalVariants := by
  intro v
  constructor
  · obtain ⟨chip, h, off, mode, strategy⟩ := v
    intro hwf
    cases chip <;>
      simp only [DisplayVariant.wellFormed, Bool.and_eq_true, Bool.or_eq_true, beq_iff_eq] at hwf <;>
      obtain ⟨hheight, ⟨rfl, rfl⟩, rfl⟩ := hwf <;>
      rcases hheight with rfl | rfl
    · exact ⟨.ssd1306, false, rfl⟩
    · exact ⟨.ssd1306, true, rfl⟩
    · exact ⟨.sh1106, false, rfl⟩
    · exact ⟨.sh1106, true, rfl⟩
  · rintro ⟨chip, h64, rfl⟩
    cases chip <;> cases h64 <;> rfl

/-- Settles O60: the program is a closed text, and the assembler computes. -/
theorem textAssemblesToRequests : Obligations.TextAssemblesToRequests := by
  unfold Obligations.TextAssemblesToRequests
  decide +kernel

end Sys2Proof.Machine
